-- ==== Sys2Proof/Word.lean ====
section
/-! DEFINITION. The word types of the block (00_scope.md R8, R11; 20_memory.md R61): plain bit vectors, unsigned. -/

namespace Sys2Proof

/-- A scratch word: `WORD_BITS` = 256 bits, unsigned (R8, R22). -/
abbrev Word := BitVec 256

/-- A word of the 32-bit host bus, and a register or command word (R61, R90). -/
abbrev BusWord := BitVec 32

/-- A byte of the input buffer (R25). -/
abbrev Byte := BitVec 8

/-- A scratch index field D, A or B: an unsigned 8-bit word index (R91). -/
abbrev Idx := BitVec 8

/-- The number of words in the scratch file, `SCRATCH_WORDS` (R8). -/
abbrev scratchWords : Nat := 256

end Sys2Proof
end

