-- ==== Sys2Proof/Syntax.lean ====
section
/-! DEFINITION. The 41 commands of 30_encoding.md R92, one constructor per row of the opcode table. The fields
are the ones R92 gives the opcode, as the encoding holds them (R90, R91); an unused field is no field (R94). -/

namespace Sys2Proof

/-- A command. `d`, `a` and `b` are scratch indices, `k` is the 16-bit limb index of LDIB. -/
inductive Instr where
  -- Control and transfer (R93 group 0x0_)
  /-- NOP, OP = 0x00 (R340). -/
  | nop
  /-- EVALUATE, OP = 0x01 (R310). -/
  | evaluate
  /-- LDIB, OP = 0x02 (R341). -/
  | ldib (d : Idx) (k : BitVec 16)
  -- Fp (group 0x1_)
  /-- FP_ADD, OP = 0x10 (R124). -/
  | fpAdd (d : Idx) (a : Idx) (b : Idx)
  /-- FP_SUB, OP = 0x11 (R125). -/
  | fpSub (d : Idx) (a : Idx) (b : Idx)
  /-- FP_NEG, OP = 0x12 (R126). -/
  | fpNeg (d : Idx) (a : Idx)
  /-- FP_MUL, OP = 0x13 (R127). -/
  | fpMul (d : Idx) (a : Idx) (b : Idx)
  /-- FP_INV, OP = 0x14 (R128). -/
  | fpInv (d : Idx) (a : Idx)
  /-- FP_EQ, OP = 0x15 (R129). -/
  | fpEq (a : Idx) (b : Idx)
  -- Fp2 (group 0x2_)
  /-- FP2_ADD, OP = 0x20 (R170). -/
  | fp2Add (d : Idx) (a : Idx) (b : Idx)
  /-- FP2_SUB, OP = 0x21 (R171). -/
  | fp2Sub (d : Idx) (a : Idx) (b : Idx)
  /-- FP2_NEG, OP = 0x22 (R172). -/
  | fp2Neg (d : Idx) (a : Idx)
  /-- FP2_MUL, OP = 0x23 (R173). -/
  | fp2Mul (d : Idx) (a : Idx) (b : Idx)
  /-- FP2_INV, OP = 0x24 (R174). -/
  | fp2Inv (d : Idx) (a : Idx)
  /-- FP2_EQ, OP = 0x25 (R175). -/
  | fp2Eq (a : Idx) (b : Idx)
  -- Fp6 (group 0x3_)
  /-- FP6_ADD, OP = 0x30 (R180). -/
  | fp6Add (d : Idx) (a : Idx) (b : Idx)
  /-- FP6_SUB, OP = 0x31 (R181). -/
  | fp6Sub (d : Idx) (a : Idx) (b : Idx)
  /-- FP6_NEG, OP = 0x32 (R182). -/
  | fp6Neg (d : Idx) (a : Idx)
  /-- FP6_MUL, OP = 0x33 (R183). -/
  | fp6Mul (d : Idx) (a : Idx) (b : Idx)
  /-- FP6_INV, OP = 0x34 (R184). -/
  | fp6Inv (d : Idx) (a : Idx)
  /-- FP6_EQ, OP = 0x35 (R185). -/
  | fp6Eq (a : Idx) (b : Idx)
  -- Fp12 (group 0x4_)
  /-- FP12_ADD, OP = 0x40 (R190). -/
  | fp12Add (d : Idx) (a : Idx) (b : Idx)
  /-- FP12_SUB, OP = 0x41 (R191). -/
  | fp12Sub (d : Idx) (a : Idx) (b : Idx)
  /-- FP12_NEG, OP = 0x42 (R192). -/
  | fp12Neg (d : Idx) (a : Idx)
  /-- FP12_MUL, OP = 0x43 (R193). -/
  | fp12Mul (d : Idx) (a : Idx) (b : Idx)
  /-- FP12_INV, OP = 0x44 (R194). -/
  | fp12Inv (d : Idx) (a : Idx)
  /-- FP12_EQ, OP = 0x45 (R195). -/
  | fp12Eq (a : Idx) (b : Idx)
  -- Curve (group 0x5_)
  /-- DEC_G1, OP = 0x50 (R230). -/
  | decG1 (d : Idx) (a : Idx)
  /-- DEC_G2, OP = 0x51 (R231). -/
  | decG2 (d : Idx) (a : Idx)
  /-- G1_CHK, OP = 0x52 (R232). -/
  | g1Chk (a : Idx)
  /-- G2_CHK, OP = 0x53 (R233). -/
  | g2Chk (a : Idx)
  /-- G2_SUBGRP, OP = 0x54 (R234). -/
  | g2Subgrp (a : Idx)
  -- Pairing (group 0x6_)
  /-- LINE_DBL, OP = 0x60 (R270). -/
  | lineDbl (d : Idx) (a : Idx) (b : Idx)
  /-- LINE_ADD, OP = 0x61 (R271). -/
  | lineAdd (d : Idx) (a : Idx) (b : Idx)
  /-- MILLER, OP = 0x62 (R272). -/
  | miller (d : Idx) (a : Idx) (b : Idx)
  /-- FINEXP, OP = 0x63 (R273). -/
  | finexp (d : Idx) (a : Idx)
  /-- PAIR, OP = 0x64 (R274). -/
  | pair (d : Idx) (a : Idx) (b : Idx)
  -- Aggregator (group 0x7_)
  /-- ACC_INIT, OP = 0x70 (R302). -/
  | accInit
  /-- ACC_PAIR, OP = 0x71 (R303). -/
  | accPair (a : Idx) (b : Idx)
  /-- ACC_CHECK, OP = 0x72 (R304). -/
  | accCheck
  /-- ACC_STORE, OP = 0x73 (R305). -/
  | accStore (d : Idx)
deriving DecidableEq, Repr

namespace Instr

/-- The mnemonic of R92. -/
def mnemonic : Instr → String
  | .nop => "NOP"
  | .evaluate => "EVALUATE"
  | .ldib _ _ => "LDIB"
  | .fpAdd _ _ _ => "FP_ADD"
  | .fpSub _ _ _ => "FP_SUB"
  | .fpNeg _ _ => "FP_NEG"
  | .fpMul _ _ _ => "FP_MUL"
  | .fpInv _ _ => "FP_INV"
  | .fpEq _ _ => "FP_EQ"
  | .fp2Add _ _ _ => "FP2_ADD"
  | .fp2Sub _ _ _ => "FP2_SUB"
  | .fp2Neg _ _ => "FP2_NEG"
  | .fp2Mul _ _ _ => "FP2_MUL"
  | .fp2Inv _ _ => "FP2_INV"
  | .fp2Eq _ _ => "FP2_EQ"
  | .fp6Add _ _ _ => "FP6_ADD"
  | .fp6Sub _ _ _ => "FP6_SUB"
  | .fp6Neg _ _ => "FP6_NEG"
  | .fp6Mul _ _ _ => "FP6_MUL"
  | .fp6Inv _ _ => "FP6_INV"
  | .fp6Eq _ _ => "FP6_EQ"
  | .fp12Add _ _ _ => "FP12_ADD"
  | .fp12Sub _ _ _ => "FP12_SUB"
  | .fp12Neg _ _ => "FP12_NEG"
  | .fp12Mul _ _ _ => "FP12_MUL"
  | .fp12Inv _ _ => "FP12_INV"
  | .fp12Eq _ _ => "FP12_EQ"
  | .decG1 _ _ => "DEC_G1"
  | .decG2 _ _ => "DEC_G2"
  | .g1Chk _ => "G1_CHK"
  | .g2Chk _ => "G2_CHK"
  | .g2Subgrp _ => "G2_SUBGRP"
  | .lineDbl _ _ _ => "LINE_DBL"
  | .lineAdd _ _ _ => "LINE_ADD"
  | .miller _ _ _ => "MILLER"
  | .finexp _ _ => "FINEXP"
  | .pair _ _ _ => "PAIR"
  | .accInit => "ACC_INIT"
  | .accPair _ _ => "ACC_PAIR"
  | .accCheck => "ACC_CHECK"
  | .accStore _ => "ACC_STORE"

end Instr

end Sys2Proof
end

