-- ==== Sys2Proof/Decode.lean ====
section
/-! DEFINITION. The command word (30_encoding.md R90 to R94, R99, R100): the decoder, total on all 2^32 words, which
rejects a reserved opcode by name, and after it the encoder. -/

namespace Sys2Proof

/-- Why a word is no command. -/
inductive DecodeError where
  /-- The opcode is not one of the 41 of R92 (R99). Raised by `decode`; the core answers it with the IllegalOpcode
  fault, as R99 says, so it stops nothing. -/
  | illegalOpcode (op : BitVec 8)
deriving DecidableEq, Repr

/-- The opcode field OP, bits 31:24 (R90). -/
def opField (c : BusWord) : BitVec 8 := c.extractLsb' 24 8

/-- The destination field D, bits 23:16 (R90). -/
def dField (c : BusWord) : Idx := c.extractLsb' 16 8

/-- The first source field A, bits 15:8 (R90). -/
def aField (c : BusWord) : Idx := c.extractLsb' 8 8

/-- The second source field B, bits 7:0 (R90). -/
def bField (c : BusWord) : Idx := c.extractLsb' 0 8

/-- The command with opcode `op` and fields `d`, `a`, `b` (R92). For LDIB alone A and B form the limb index
`K = {A, B}` = A·256 + B (R91). -/
def decodeFields (op : BitVec 8) (d a b : Idx) : Except DecodeError Instr :=
  match op with
  | 0x00#8 => .ok .nop
  | 0x01#8 => .ok .evaluate
  | 0x02#8 => .ok (.ldib d (a ++ b))
  | 0x10#8 => .ok (.fpAdd d a b)
  | 0x11#8 => .ok (.fpSub d a b)
  | 0x12#8 => .ok (.fpNeg d a)
  | 0x13#8 => .ok (.fpMul d a b)
  | 0x14#8 => .ok (.fpInv d a)
  | 0x15#8 => .ok (.fpEq a b)
  | 0x20#8 => .ok (.fp2Add d a b)
  | 0x21#8 => .ok (.fp2Sub d a b)
  | 0x22#8 => .ok (.fp2Neg d a)
  | 0x23#8 => .ok (.fp2Mul d a b)
  | 0x24#8 => .ok (.fp2Inv d a)
  | 0x25#8 => .ok (.fp2Eq a b)
  | 0x30#8 => .ok (.fp6Add d a b)
  | 0x31#8 => .ok (.fp6Sub d a b)
  | 0x32#8 => .ok (.fp6Neg d a)
  | 0x33#8 => .ok (.fp6Mul d a b)
  | 0x34#8 => .ok (.fp6Inv d a)
  | 0x35#8 => .ok (.fp6Eq a b)
  | 0x40#8 => .ok (.fp12Add d a b)
  | 0x41#8 => .ok (.fp12Sub d a b)
  | 0x42#8 => .ok (.fp12Neg d a)
  | 0x43#8 => .ok (.fp12Mul d a b)
  | 0x44#8 => .ok (.fp12Inv d a)
  | 0x45#8 => .ok (.fp12Eq a b)
  | 0x50#8 => .ok (.decG1 d a)
  | 0x51#8 => .ok (.decG2 d a)
  | 0x52#8 => .ok (.g1Chk a)
  | 0x53#8 => .ok (.g2Chk a)
  | 0x54#8 => .ok (.g2Subgrp a)
  | 0x60#8 => .ok (.lineDbl d a b)
  | 0x61#8 => .ok (.lineAdd d a b)
  | 0x62#8 => .ok (.miller d a b)
  | 0x63#8 => .ok (.finexp d a)
  | 0x64#8 => .ok (.pair d a b)
  | 0x70#8 => .ok .accInit
  | 0x71#8 => .ok (.accPair a b)
  | 0x72#8 => .ok .accCheck
  | 0x73#8 => .ok (.accStore d)
  | op => .error (.illegalOpcode op)

/-- The command a word stands for; the choice depends on bits 31:24 alone (R92, R99, R100). -/
def decode (c : BusWord) : Except DecodeError Instr := decodeFields (opField c) (dField c) (aField c) (bField c)

/-- A command word from its four fields (R90). -/
def commandWord (op : BitVec 8) (d a b : Idx) : BusWord := op ++ d ++ a ++ b

/-- The word of a command; unused fields are written 0 (R92, R101). -/
def encode : Instr → BusWord
  | .nop => commandWord 0x00 0 0 0
  | .evaluate => commandWord 0x01 0 0 0
  | .ldib d k => commandWord 0x02 d (k.extractLsb' 8 8) (k.extractLsb' 0 8)
  | .fpAdd d a b => commandWord 0x10 d a b
  | .fpSub d a b => commandWord 0x11 d a b
  | .fpNeg d a => commandWord 0x12 d a 0
  | .fpMul d a b => commandWord 0x13 d a b
  | .fpInv d a => commandWord 0x14 d a 0
  | .fpEq a b => commandWord 0x15 0 a b
  | .fp2Add d a b => commandWord 0x20 d a b
  | .fp2Sub d a b => commandWord 0x21 d a b
  | .fp2Neg d a => commandWord 0x22 d a 0
  | .fp2Mul d a b => commandWord 0x23 d a b
  | .fp2Inv d a => commandWord 0x24 d a 0
  | .fp2Eq a b => commandWord 0x25 0 a b
  | .fp6Add d a b => commandWord 0x30 d a b
  | .fp6Sub d a b => commandWord 0x31 d a b
  | .fp6Neg d a => commandWord 0x32 d a 0
  | .fp6Mul d a b => commandWord 0x33 d a b
  | .fp6Inv d a => commandWord 0x34 d a 0
  | .fp6Eq a b => commandWord 0x35 0 a b
  | .fp12Add d a b => commandWord 0x40 d a b
  | .fp12Sub d a b => commandWord 0x41 d a b
  | .fp12Neg d a => commandWord 0x42 d a 0
  | .fp12Mul d a b => commandWord 0x43 d a b
  | .fp12Inv d a => commandWord 0x44 d a 0
  | .fp12Eq a b => commandWord 0x45 0 a b
  | .decG1 d a => commandWord 0x50 d a 0
  | .decG2 d a => commandWord 0x51 d a 0
  | .g1Chk a => commandWord 0x52 0 a 0
  | .g2Chk a => commandWord 0x53 0 a 0
  | .g2Subgrp a => commandWord 0x54 0 a 0
  | .lineDbl d a b => commandWord 0x60 d a b
  | .lineAdd d a b => commandWord 0x61 d a b
  | .miller d a b => commandWord 0x62 d a b
  | .finexp d a => commandWord 0x63 d a 0
  | .pair d a b => commandWord 0x64 d a b
  | .accInit => commandWord 0x70 0 0 0
  | .accPair a b => commandWord 0x71 0 a b
  | .accCheck => commandWord 0x72 0 0 0
  | .accStore d => commandWord 0x73 d 0 0

/-- The bits of a command's word that carry its opcode or one of its fields; every other bit is ignored (R92, R94). -/
def usedBits : Instr → BusWord
  | .nop => 0xff000000
  | .evaluate => 0xff000000
  | .ldib _ _ => 0xffffffff
  | .fpAdd _ _ _ => 0xffffffff
  | .fpSub _ _ _ => 0xffffffff
  | .fpNeg _ _ => 0xffffff00
  | .fpMul _ _ _ => 0xffffffff
  | .fpInv _ _ => 0xffffff00
  | .fpEq _ _ => 0xff00ffff
  | .fp2Add _ _ _ => 0xffffffff
  | .fp2Sub _ _ _ => 0xffffffff
  | .fp2Neg _ _ => 0xffffff00
  | .fp2Mul _ _ _ => 0xffffffff
  | .fp2Inv _ _ => 0xffffff00
  | .fp2Eq _ _ => 0xff00ffff
  | .fp6Add _ _ _ => 0xffffffff
  | .fp6Sub _ _ _ => 0xffffffff
  | .fp6Neg _ _ => 0xffffff00
  | .fp6Mul _ _ _ => 0xffffffff
  | .fp6Inv _ _ => 0xffffff00
  | .fp6Eq _ _ => 0xff00ffff
  | .fp12Add _ _ _ => 0xffffffff
  | .fp12Sub _ _ _ => 0xffffffff
  | .fp12Neg _ _ => 0xffffff00
  | .fp12Mul _ _ _ => 0xffffffff
  | .fp12Inv _ _ => 0xffffff00
  | .fp12Eq _ _ => 0xff00ffff
  | .decG1 _ _ => 0xffffff00
  | .decG2 _ _ => 0xffffff00
  | .g1Chk _ => 0xff00ff00
  | .g2Chk _ => 0xff00ff00
  | .g2Subgrp _ => 0xff00ff00
  | .lineDbl _ _ _ => 0xffffffff
  | .lineAdd _ _ _ => 0xffffffff
  | .miller _ _ _ => 0xffffffff
  | .finexp _ _ => 0xffffff00
  | .pair _ _ _ => 0xffffffff
  | .accInit => 0xff000000
  | .accPair _ _ => 0xff00ffff
  | .accCheck => 0xff000000
  | .accStore _ => 0xffff0000

/-- The instruction the decoder reads from a table word: `w` holds the low `nbits` bits of the command word, and
every bit above is 0. -/
def decodeTableWord (nbits w : Nat) : Option Instr :=
  if nbits ≤ 32 then (decode (BitVec.ofNat 32 (w % 2 ^ nbits))).toOption else none

end Sys2Proof
end

