-- ==== Sys2Proof/Config.lean ====
section
/-! DEFINITION. What an implementation fixes (00_scope.md R8) and the free values the spec leaves open.
An `opaque` constant has no body: no proof can learn its value, so a claim holds whatever the hardware has. -/

namespace Sys2Proof.Config

/-- The value of the ID register: an OPEN parameter (R8, R28). -/
opaque idValue : BusWord

/-- The host address at which the register window starts: an OPEN parameter; no rule depends on it (R8, R61). -/
opaque base : Nat

/-- `MAX_PAIRS` of a block as delivered: 170 by default, any integer from 1 to 170 is allowed (R8). Only
`State.reset` reads this default; everything else reads MAX_PAIRS from the CAPS register of the state. -/
def maxPairs : Nat := 170

/-- Free value: what the `n`-th draw returns to a host read of S or IBUF while BUSY = 1 (R68, U13). -/
opaque busyRead : Nat → BusWord

/-- Free value: what the `n`-th draw leaves in a destination word of a command that a soft reset aborts
(R451, U14). -/
opaque abortedWord : Nat → Word

end Sys2Proof.Config
end

