-- ==== Sys2Proof/Machine/Field.lean ====
section
/-! DEFINITION. The fields of the block: Fp (40_field_fp.md R120 to R123) and the tower Fp2, Fp6, Fp12 over it
(41_field_ext.md R160 to R165), with the hardwired constants of 00_scope.md R9. An element of Fp is a natural number
below p, so every value of these types is canonical by construction. -/

namespace Sys2Proof.Machine

/-- The BN parameter u (R9). -/
def bnParam : Nat := 4965661367192848881

/-- The field modulus p (R9). -/
def p : Nat := 0x30644e72e131a029b85045b68181585d97816a916871ca8d3c208c16d87cfd47

/-- The prime order n of G1, G2 and GT (R9). -/
def groupOrder : Nat := 0x30644e72e131a029b85045b68181585d2833e84879b9709143e1f593f0000001

/-- Square and multiply: the `k`-fold product of `x` under `op`, with `e` for the empty product, reading the low
`w` bits of `k` from the top one down. With an associative `op` it is the power, or the scalar multiple, whatever
the method (R165, R222, R266 leave the method free). -/
def binPow {α : Type} (op : α → α → α) (e x : α) (k : Nat) : Nat → α
  | 0 => e
  | w + 1 =>
    let r := binPow op e x (k / 2) w
    if k % 2 = 1 then op (op r r) x else op r r

/-! ### Fp -/

/-- An element of Fp: an integer in [0, p) (R120). Its `+`, `-`, `*` and negation are those of the integers, reduced
once modulo p (R122). -/
abbrev Fp := Fin p

namespace Fp

/-- The residue of a natural number. -/
def ofNat (k : Nat) : Fp := ⟨k % p, Nat.mod_lt _ (by decide)⟩

/-- The additive identity. -/
def zero : Fp := ofNat 0

/-- The multiplicative identity. -/
def one : Fp := ofNat 1

/-- `inv_p` (R14, R128): the inverse as `a^(p-2) mod p`. No command applies it to 0 (R128, R402). -/
def inv (a : Fp) : Fp := binPow (fun x y => x * y) one a (p - 2) 254

/-- The element a scratch word holds, if the word is canonical, that is below p (R121). -/
def ofWord? (w : Word) : Option Fp := if h : w.toNat < p then some ⟨w.toNat, h⟩ else none

/-- The scratch word of an element: its canonical integer (R120, R127). -/
def toWord (a : Fp) : Word := BitVec.ofNat 256 a.val

end Fp

/-! ### Fp2 = Fp[i] / (i² + 1) -/

/-- An element `c0 + c1·i` of Fp2 (R23, R160). -/
structure Fp2 where
  c0 : Fp
  c1 : Fp
deriving DecidableEq, Repr

namespace Fp2

/-- The integer `k` as an element of Fp2. -/
def ofNat (k : Nat) : Fp2 := ⟨Fp.ofNat k, Fp.zero⟩

/-- The additive identity. -/
def zero : Fp2 := ⟨Fp.zero, Fp.zero⟩

/-- The multiplicative identity. -/
def one : Fp2 := ⟨Fp.one, Fp.zero⟩

/-- `ξ = 9 + i` (R160). -/
def xi : Fp2 := ⟨Fp.ofNat 9, Fp.one⟩

/-- `add2` (R162). -/
def add (a b : Fp2) : Fp2 := ⟨a.c0 + b.c0, a.c1 + b.c1⟩

/-- `sub2` (R162). -/
def sub (a b : Fp2) : Fp2 := ⟨a.c0 - b.c0, a.c1 - b.c1⟩

/-- `neg2` (R162). -/
def neg (a : Fp2) : Fp2 := ⟨-a.c0, -a.c1⟩

/-- `mul2` (R162). -/
def mul (a b : Fp2) : Fp2 := ⟨a.c0 * b.c0 - a.c1 * b.c1, a.c0 * b.c1 + a.c1 * b.c0⟩

/-- `conj2` (R162). -/
def conj (a : Fp2) : Fp2 := ⟨a.c0, -a.c1⟩

/-- `mulxi`, multiplication by ξ (R162). -/
def mulXi (x : Fp2) : Fp2 := ⟨Fp.ofNat 9 * x.c0 - x.c1, x.c0 + Fp.ofNat 9 * x.c1⟩

/-- The norm `a0² + a1²` down to Fp (R162). -/
def norm (a : Fp2) : Fp := a.c0 * a.c0 + a.c1 * a.c1

/-- `inv2` (R162), the inverse of a nonzero element (R165). -/
def inv (a : Fp2) : Fp2 :=
  let t := a.norm.inv
  ⟨a.c0 * t, -a.c1 * t⟩

end Fp2

/-! ### Fp6 = Fp2[v] / (v³ - ξ) -/

/-- An element `a0 + a1·v + a2·v²` of Fp6 (R23, R160). -/
structure Fp6 where
  a0 : Fp2
  a1 : Fp2
  a2 : Fp2
deriving DecidableEq, Repr

namespace Fp6

/-- The additive identity. -/
def zero : Fp6 := ⟨Fp2.zero, Fp2.zero, Fp2.zero⟩

/-- The multiplicative identity. -/
def one : Fp6 := ⟨Fp2.one, Fp2.zero, Fp2.zero⟩

/-- `add6` (R163). -/
def add (a b : Fp6) : Fp6 := ⟨a.a0.add b.a0, a.a1.add b.a1, a.a2.add b.a2⟩

/-- `sub6` (R163). -/
def sub (a b : Fp6) : Fp6 := ⟨a.a0.sub b.a0, a.a1.sub b.a1, a.a2.sub b.a2⟩

/-- `neg6` (R163). -/
def neg (a : Fp6) : Fp6 := ⟨a.a0.neg, a.a1.neg, a.a2.neg⟩

/-- `mul6` (R163). -/
def mul (a b : Fp6) : Fp6 :=
  ⟨(a.a0.mul b.a0).add ((a.a1.mul b.a2).add (a.a2.mul b.a1)).mulXi,
   ((a.a0.mul b.a1).add (a.a1.mul b.a0)).add (a.a2.mul b.a2).mulXi,
   ((a.a0.mul b.a2).add (a.a1.mul b.a1)).add (a.a2.mul b.a0)⟩

/-- `mulv`, multiplication by v (R163). -/
def mulV (x : Fp6) : Fp6 := ⟨x.a2.mulXi, x.a0, x.a1⟩

/-- The element A of `inv6` (R163). -/
def adjA (a : Fp6) : Fp2 := (a.a0.mul a.a0).sub (a.a1.mul a.a2).mulXi

/-- The element B of `inv6` (R163). -/
def adjB (a : Fp6) : Fp2 := (a.a2.mul a.a2).mulXi.sub (a.a0.mul a.a1)

/-- The element C of `inv6` (R163). -/
def adjC (a : Fp6) : Fp2 := (a.a1.mul a.a1).sub (a.a0.mul a.a2)

/-- F of `inv6`, the norm of `a` down to Fp2 (R163). -/
def norm (a : Fp6) : Fp2 := (a.a0.mul a.adjA).add ((a.a2.mul a.adjB).add (a.a1.mul a.adjC)).mulXi

/-- `inv6` (R163), the inverse of a nonzero element (R165). -/
def inv (a : Fp6) : Fp6 :=
  let t := a.norm.inv
  ⟨a.adjA.mul t, a.adjB.mul t, a.adjC.mul t⟩

end Fp6

/-! ### Fp12 = Fp6[w] / (w² - v) -/

/-- An element `g0 + g1·w` of Fp12 (R23, R160). -/
structure Fp12 where
  g0 : Fp6
  g1 : Fp6
deriving DecidableEq, Repr

namespace Fp12

/-- The additive identity. -/
def zero : Fp12 := ⟨Fp6.zero, Fp6.zero⟩

/-- `one12`, written 1_12, the multiplicative identity (R164) and the identity of GT (R267). -/
def one : Fp12 := ⟨Fp6.one, Fp6.zero⟩

/-- `add12` (R164). -/
def add (g h : Fp12) : Fp12 := ⟨g.g0.add h.g0, g.g1.add h.g1⟩

/-- `sub12` (R164). -/
def sub (g h : Fp12) : Fp12 := ⟨g.g0.sub h.g0, g.g1.sub h.g1⟩

/-- `neg12` (R164). -/
def neg (g : Fp12) : Fp12 := ⟨g.g0.neg, g.g1.neg⟩

/-- `mul12` (R164). -/
def mul (g h : Fp12) : Fp12 :=
  ⟨(g.g0.mul h.g0).add (g.g1.mul h.g1).mulV, (g.g0.mul h.g1).add (g.g1.mul h.g0)⟩

/-- The element t of `inv12`, the norm of `g` down to Fp6 (R164). -/
def norm (g : Fp12) : Fp6 := (g.g0.mul g.g0).sub (g.g1.mul g.g1).mulV

/-- `inv12` (R164), the inverse of a nonzero element (R165). -/
def inv (g : Fp12) : Fp12 :=
  let t := g.norm.inv
  ⟨g.g0.mul t, (g.g1.mul t).neg⟩

end Fp12

end Sys2Proof.Machine
end

