-- ==== Sys2Proof/Machine/State.lean ====
section
/-! DEFINITION. The state of one block instance as plain data (10_state.md R20 to R43), the reset state
(70_reset_and_hazards.md R450), and the reasons a step of the model could stop (there is none the spec gives). -/

namespace Sys2Proof.Machine

/-- The error codes of STATUS.ERRCODE (60_exceptions.md R401). Codes 11 to 15 are reserved and never produced
(U8): no value of this type stands for them. -/
inductive ErrCode where
  /-- 0: no error. -/
  | none
  /-- 1: LEN mod 192 ≠ 0. -/
  | invalidInputLength
  /-- 2: a raw 32-byte limb ≥ p. -/
  | outOfRangeField
  /-- 3: in-range coordinates, not all zero, off the curve. -/
  | pointNotOnCurve
  /-- 4: a G2 point on E' with [n]Q ≠ O. -/
  | invalidSubgroup
  /-- 5: a reserved opcode. -/
  | illegalOpcode
  /-- 6: an operand range beyond S, the LINE overlap, or an LDIB limb beyond IBUF. -/
  | badOperand
  /-- 7: a source word read as a field element is ≥ p. -/
  | nonCanonicalOperand
  /-- 8: inversion of zero, or FINEXP of zero. -/
  | inverseOfZero
  /-- 9: LEN a multiple of 192 but above IBUF_BYTES. -/
  | capacityExceeded
  /-- 10: a point operand in scratch is not on its curve and not O. -/
  | invalidOperandPoint
deriving DecidableEq, Repr

/-- The width of a host bus access. The block performs 4-byte accesses only (20_memory.md R61); the other widths
exist so that a dropped access can be stated (R67). -/
inductive AccessSize where
  | byte
  | half
  | word
  | double
deriving DecidableEq, Repr

/-- One access of the host to the 64 KiB register window, at an offset relative to BASE (R60, R61). -/
inductive HostAccess where
  /-- `MemRead(off, size)`. -/
  | read (size : AccessSize) (off : BitVec 16)
  /-- `MemWrite(off, size, value)`. -/
  | write (size : AccessSize) (off : BitVec 16) (value : BusWord)
deriving DecidableEq, Repr

/-- One turn of the host: an access, and whether the host makes it without waiting for BUSY = 0. With
`whileBusy` set the access comes before the completion of a command in flight, without it the core completes first;
the flag means nothing when BUSY = 0. Each interleaving of the two agents (R453) is one choice of the flags. -/
structure HostTurn where
  access : HostAccess
  whileBusy : Bool
deriving DecidableEq, Repr

/-- The state of the block (R20), and the model's own fields at its end. -/
structure State where
  /-- S, the scratch file of 256 words (R22). -/
  scratch : Vector Word scratchWords
  /-- IB, the input buffer, as its nonzero bytes by rising index (R25). -/
  ibuf : List Host.Cell
  /-- ACC, the accumulator (R26). -/
  acc : Fp12
  /-- ID (R28). -/
  id : BusWord
  /-- CAPS: MAX_PAIRS in bits 15:0, SCRATCH_WORDS in bits 31:16 (R34). -/
  caps : BusWord
  /-- CTRL.IE (R29). -/
  ie : Bool
  /-- STATUS.BUSY (R30). -/
  busy : Bool
  /-- STATUS.DONE (R30). -/
  done : Bool
  /-- STATUS.ERR (R30). -/
  err : Bool
  /-- STATUS.RESULT (R30, R35). -/
  result : Bool
  /-- STATUS.HERR (R30, R404). -/
  herr : Bool
  /-- STATUS.ERRCODE (R30, R401). -/
  errCode : ErrCode
  /-- LASTCMD, the last accepted command word, and with `busy` the command in flight (R31, R41). -/
  lastCmd : BusWord
  /-- LEN (R32). -/
  len : BusWord
  /-- ERRINFO (R33). -/
  errInfo : BusWord
  /-- The model's own: the accesses the host will still make, in order. -/
  pending : List HostTurn
  /-- The model's own: what the block answered to the host's last read. -/
  readData : BusWord
  /-- The model's own: how many free values have been drawn. -/
  draws : Nat
deriving DecidableEq, Repr

/-- Why a step could stop with a fault. The spec has no such case: a command fault is a completion (R400) and a
host access error sets HERR (R404), both next states; "No behaviour is treated as `stuck`". -/
inductive Fault where
deriving DecidableEq, Repr

/-- Why a step could be refused. -/
inductive Refusal where
  /-- Raised by `exec` alone, for an instruction whose meaning is not written yet; safe. No arm answers it now. -/
  | notModelled (mnemonic : String)
deriving DecidableEq, Repr

/-- The outcome of a step of this machine. -/
abbrev Outcome := Host.Outcome State Fault Refusal

/-- The reset value of CAPS: `{SCRATCH_WORDS[15:0], MAX_PAIRS[15:0]}` (R27, R34). -/
def capsValue (maxPairs : Nat) : BusWord := BitVec.ofNat 16 scratchWords ++ BitVec.ofNat 16 maxPairs

/-- The state after power-on reset (R43, R450). S and IB are unspecified there: the model takes zeros (log entries
1 and 2, DESIGN CHOICE, unsafe). -/
def State.reset : State where
  scratch := Vector.replicate scratchWords 0
  ibuf := []
  acc := Fp12.one
  id := Config.idValue
  caps := capsValue Config.maxPairs
  ie := false
  busy := false
  done := false
  err := false
  result := false
  herr := false
  errCode := .none
  lastCmd := 0
  len := 0
  errInfo := 0
  pending := []
  readData := 0
  draws := 0

end Sys2Proof.Machine
end

