-- ==== Sys2Proof/Machine/Flags.lean ====
section
/-! DEFINITION. The host's views of the registers, computed from the state (10_state.md R27 to R34), and the
interrupt output (R40). -/

namespace Sys2Proof.Machine

/-- The numeric code of STATUS.ERRCODE (60_exceptions.md R401). -/
def ErrCode.toBits : ErrCode → BitVec 4
  | .none => 0
  | .invalidInputLength => 1
  | .outOfRangeField => 2
  | .pointNotOnCurve => 3
  | .invalidSubgroup => 4
  | .illegalOpcode => 5
  | .badOperand => 6
  | .nonCanonicalOperand => 7
  | .inverseOfZero => 8
  | .capacityExceeded => 9
  | .invalidOperandPoint => 10

namespace State

/-- The STATUS register (R30): ERRCODE in bits 11:8, HERR, RESULT, ERR, DONE, BUSY in bits 4 to 0, every reserved
bit 0. -/
def statusWord (s : State) : BusWord :=
  (0 : BitVec 20) ++ s.errCode.toBits ++ (0 : BitVec 3) ++ BitVec.ofBool s.herr ++ BitVec.ofBool s.result
    ++ BitVec.ofBool s.err ++ BitVec.ofBool s.done ++ BitVec.ofBool s.busy

/-- The CTRL register as read: `{28'b0, IE, 3'b000}` (R29). -/
def ctrlWord (s : State) : BusWord := (0 : BitVec 28) ++ BitVec.ofBool s.ie ++ (0 : BitVec 3)

/-- The interrupt output `IRQ = CTRL.IE AND STATUS.DONE` (R40, R408). -/
def irq (s : State) : Bool := s.ie && s.done

/-- CAPS.MAXP, bits 15:0 (R34). -/
def maxPairs (s : State) : Nat := (s.caps.extractLsb' 0 16).toNat

/-- CAPS.NWORDS, bits 31:16 (R34). -/
def numWords (s : State) : Nat := (s.caps.extractLsb' 16 16).toNat

/-- `IBUF_BYTES = 192 * MAX_PAIRS` (R8, R25). -/
def ibufBytes (s : State) : Nat := 192 * s.maxPairs

/-- ERRINFO.ELEM, bits 15:0 (R33). -/
def errElem (s : State) : BitVec 16 := s.errInfo.extractLsb' 0 16

/-- ERRINFO.PART, bit 16 (R33). -/
def errPart (s : State) : Bool := s.errInfo.getLsbD 16

end State

/-- The ERRINFO word for element `i`: `i` with PART in bit 16 (R33, 44_aggregate.md R310). -/
def errInfoWord (i : Nat) (part : Bool) : BusWord := (0 : BitVec 15) ++ BitVec.ofBool part ++ BitVec.ofNat 16 i

end Sys2Proof.Machine
end

