-- ==== Sys2Proof/Machine/Ops.lean ====
section
/-! DEFINITION. The named operations over the state: the input buffer, the scratch file, accepting a command, its
completion, raising a fault, and the soft reset. -/

namespace Sys2Proof.Machine

/-! ### The input buffer

Its bytes are cells (index, byte), by rising index, no zero byte listed. Which byte an unlisted index holds is the one
choice `unwrittenByte`. -/

/-- What a byte that nothing has written reads as. DESIGN CHOICE (log entry 2): the spec leaves the buffer unspecified
at power-on (R25, U12). -/
def unwrittenByte : Byte := 0

namespace Memory

/-- The byte at index `a`. -/
def read : List Host.Cell → Nat → Byte
  | [], _ => unwrittenByte
  | c :: m, a => if c.1 = a then c.2 else read m a

/-- Put the byte `v` at index `a`, keeping the canonical form: writing what an unlisted index reads as removes the
cell. -/
def write : List Host.Cell → Nat → Byte → List Host.Cell
  | [], a, v => if v = unwrittenByte then [] else [(a, v)]
  | c :: m, a, v =>
    if c.1 < a then c :: write m a v
    else
      let rest := if c.1 = a then m else c :: m
      if v = unwrittenByte then rest else (a, v) :: rest

/-- The canonical form: indices strictly rising, and no cell lists what an unlisted index reads as. -/
def wf : List Host.Cell → Bool
  | [] => true
  | c :: m => decide (c.2 ≠ unwrittenByte) && m.all (fun c' => decide (c.1 < c'.1)) && wf m

/-- `IBRead(j, nbytes)`: the unsigned big-endian integer of the bytes j .. j+nbytes-1 (00_scope.md R12). -/
def readBE (m : List Host.Cell) (j : Nat) : Nat → Nat
  | 0 => 0
  | k + 1 => readBE m j k * 256 + (read m (j + k)).toNat

end Memory

/-! ### The scratch file -/

/-- The bits 255-32j : 224-32j of a scratch word: bus word `j` of the word (20_memory.md R64). -/
def busField (w : Word) (j : Nat) : BusWord := w.extractLsb' (224 - 32 * j) 32

/-- The scratch word with bus word `j` replaced, its other bits as they were (R64). -/
def setBusField (w : Word) (j : Nat) (v : BusWord) : Word :=
  let at' := 224 - 32 * j
  (w &&& ~~~((BitVec.allOnes 32).setWidth 256 <<< at')) ||| (v.setWidth 256 <<< at')

namespace State

/-- `S[k]` (R12, R22). No command names an index above 255 (R95), so what such an index reads as is never seen. -/
def word (s : State) (k : Nat) : Word := (s.scratch[k]?).getD 0

/-- `S[k] <- v` (R12). -/
def setWord (s : State) (k : Nat) (v : Word) : State := { s with scratch := s.scratch.setIfInBounds k v }

/-- `S[k..k+len) <- ws` (R12). -/
def setWords (s : State) (k : Nat) : List Word → State
  | [] => s
  | w :: ws => (s.setWord k w).setWords (k + 1) ws

/-- `IB[j]` (R12, R25). -/
def ibByte (s : State) (j : Nat) : Byte := Memory.read s.ibuf j

/-- `IB[j] <- v` (R65). -/
def setIbByte (s : State) (j : Nat) (v : Byte) : State := { s with ibuf := Memory.write s.ibuf j v }

/-- `IBRead(32·k, 32)`: the wire limb `k`, a 32-byte big-endian integer (R12, R70, R72). -/
def limb (s : State) (k : Nat) : Word := BitVec.ofNat 256 (Memory.readBE s.ibuf (32 * k) 32)

/-! ### Accepting and completing a command -/

/-- Command accept: what a CMD write of `c` does while BUSY = 0 (30_encoding.md R96). -/
def accept (s : State) (c : BusWord) : State :=
  { s with lastCmd := c, busy := true, done := false, err := false, result := false, errCode := .none, errInfo := 0 }

end State

/-- What a command that ends without a fault leaves: its destination words as (index, words), a new ACC, and its
boolean result. All of it becomes visible together (R97). -/
structure Effect where
  writes : List (Nat × List Word) := []
  acc : Option Fp12 := none
  result : Bool := false

/-- `raise E(info)`: the code and the ERRINFO word of a fault (R13, R400). -/
structure Raise where
  code : ErrCode
  info : BusWord
deriving DecidableEq, Repr

namespace State

/-- Perform the destination writes of a command, in order. -/
def applyWrites (s : State) : List (Nat × List Word) → State
  | [] => s
  | w :: ws => (s.setWords w.1 w.2).applyWrites ws

/-- `complete(result)`: the completion step of a command that ends without a fault (R13, R96, R97). ERR, ERRCODE and
ERRINFO are 0 at every successful completion (R401). -/
def complete (s : State) (e : Effect) : State :=
  { s.applyWrites e.writes with
    acc := e.acc.getD s.acc, busy := false, done := true, err := false, result := e.result, errCode := .none,
    errInfo := 0 }

/-- `raise E(info)`: the completion step of a command that faults; no destination word and not ACC (R400). This is
the block's whole fault mechanism: there is no trap, vector or return (R405, R406). -/
def raise (s : State) (r : Raise) : State :=
  { s with busy := false, done := true, err := true, result := false, errCode := r.code, errInfo := r.info }

end State

/-- The body of a command: checks that may raise, then the effect (R97). -/
abbrev Cmd (α : Type) := Except Raise α

/-- `raise E(0)` (R13). -/
def Cmd.raise {α : Type} (e : ErrCode) : Cmd α := .error ⟨e, 0⟩

/-- End the command: the completion step of its body (R97). -/
def State.finish (s : State) : Cmd Effect → Outcome
  | .ok e => .next (s.complete e)
  | .error r => .next (s.raise r)

/-! ### Soft reset -/

/-- The destination ranges (index, width) of a command (R92; for LINE_* also S[A..A+4), R451). -/
def destRanges : Instr → List (Nat × Nat)
  | .ldib d _ => [(d.toNat, 1)]
  | .fpAdd d _ _ | .fpSub d _ _ | .fpMul d _ _ | .fpNeg d _ | .fpInv d _ => [(d.toNat, 1)]
  | .fp2Add d _ _ | .fp2Sub d _ _ | .fp2Mul d _ _ | .fp2Neg d _ | .fp2Inv d _ => [(d.toNat, 2)]
  | .fp6Add d _ _ | .fp6Sub d _ _ | .fp6Mul d _ _ | .fp6Neg d _ | .fp6Inv d _ => [(d.toNat, 6)]
  | .fp12Add d _ _ | .fp12Sub d _ _ | .fp12Mul d _ _ | .fp12Neg d _ | .fp12Inv d _ => [(d.toNat, 12)]
  | .decG1 d _ => [(d.toNat, 2)]
  | .decG2 d _ => [(d.toNat, 4)]
  | .lineDbl d a _ | .lineAdd d a _ => [(d.toNat, 12), (a.toNat, 4)]
  | .miller d _ _ | .pair d _ _ => [(d.toNat, 12)]
  | .finexp d _ => [(d.toNat, 12)]
  | .accStore d => [(d.toNat, 12)]
  | .nop | .evaluate | .fpEq _ _ | .fp2Eq _ _ | .fp6Eq _ _ | .fp12Eq _ _ | .g1Chk _ | .g2Chk _ | .g2Subgrp _
  | .accInit | .accPair _ _ | .accCheck => []

/-- The scratch words of ranges. -/
def rangeWords (rs : List (Nat × Nat)) : List Nat := rs.flatMap fun r => List.range' r.1 r.2

/-- The destination words of the command word `c`; an illegal opcode has none (R92, R99, R451). -/
def destWords (c : BusWord) : List Nat :=
  match decode c with
  | .ok i => rangeWords (destRanges i)
  | .error _ => []

namespace State

/-- `S[k] <- unspecified` for each word of the list, a free draw per word (R451, U14). A word above 255 does not
exist, and its draw is lost. -/
def loseWords (s : State) : List Nat → State
  | [] => s
  | k :: ks => { s.setWord k (Config.abortedWord s.draws) with draws := s.draws + 1 }.loseWords ks

/-- `soft_reset()` (70_reset_and_hazards.md R451): abort the command in flight, if there is one; ACC and every
register to its reset value; S and IB otherwise unchanged. -/
def softReset (s : State) : State :=
  { (if s.busy then s.loseWords (destWords s.lastCmd) else s) with
    acc := Fp12.one, ie := false, busy := false, done := false, err := false, result := false, herr := false,
    errCode := .none, lastCmd := 0, len := 0, errInfo := 0 }

end State

end Sys2Proof.Machine
end

