-- ==== Sys2Proof/Machine/Curve.lean ====
section
/-! DEFINITION. The curves E and E', their group law, the validity and membership predicates, and the decoders of the
wire format (42_curve.md R220 to R229). -/

namespace Sys2Proof.Machine

/-- A point of a curve over `F`: the point at infinity O, or an affine point (R14, R24). -/
inductive Point (F : Type) where
  | infinity
  | affine (x y : F)
deriving DecidableEq, Repr

/-- A point of E over Fp: an operand in G1 layout (R23, R220). -/
abbrev G1 := Point Fp

/-- A point of the twist E' over Fp2: an operand in G2 layout, in G2 or not (R23, R221). -/
abbrev G2 := Point Fp2

/-- The operations the group law needs of a field. -/
structure FieldOps (F : Type) where
  ofNat : Nat → F
  sub : F → F → F
  neg : F → F
  mul : F → F → F
  inv : F → F

/-- The arithmetic of Fp (R122). -/
def fpOps : FieldOps Fp where
  ofNat := Fp.ofNat
  sub x y := x - y
  neg x := -x
  mul x y := x * y
  inv := Fp.inv

/-- The arithmetic of Fp2 (R162). -/
def fp2Ops : FieldOps Fp2 where
  ofNat := Fp2.ofNat
  sub := Fp2.sub
  neg := Fp2.neg
  mul := Fp2.mul
  inv := Fp2.inv

/-- The affine chord-and-tangent law (R222), the same on both curves. -/
def Point.add {F : Type} [DecidableEq F] (o : FieldOps F) : Point F → Point F → Point F
  | .infinity, q => q
  | .affine x1 y1, .infinity => .affine x1 y1
  | .affine x1 y1, .affine x2 y2 =>
    if x1 = x2 ∧ y1 = o.neg y2 then .infinity
    else
      let lam :=
        if x1 = x2 then o.mul (o.mul (o.mul (o.ofNat 3) x1) x1) (o.inv (o.mul (o.ofNat 2) y1))
        else o.mul (o.sub y2 y1) (o.inv (o.sub x2 x1))
      let x3 := o.sub (o.sub (o.mul lam lam) x1) x2
      .affine x3 (o.sub (o.mul lam (o.sub x1 x3)) y1)

/-- Negation of a point (R222). -/
def Point.neg {F : Type} (o : FieldOps F) : Point F → Point F
  | .infinity => .infinity
  | .affine x y => .affine x (o.neg y)

/-- `[k]Q` (R222), reading the low `w` bits of `k`. -/
def Point.smul {F : Type} [DecidableEq F] (o : FieldOps F) (k w : Nat) (q : Point F) : Point F :=
  binPow (Point.add o) .infinity q k w

/-- The point a pair of coordinates encodes: all zero is O (R24). -/
def Point.ofCoords {F : Type} [DecidableEq F] (zero x y : F) : Point F :=
  if x = zero ∧ y = zero then .infinity else .affine x y

/-- The curve equation `y² = x³ + 3` of E (R220). -/
def onE (x y : Fp) : Bool := decide (y * y = x * x * x + Fp.ofNat 3)

/-- `b' = 3·ξ⁻¹`, the constant of the twist (R221). -/
def twistB : Fp2 :=
  ⟨Fp.ofNat 0x2b149d40ceb8aaae81be18991be06ac3b5b4c5e559dbefa33267e6dc24a138e5,
   Fp.ofNat 0x009713b03af0fed4cd2cafadeed8fdf4a74fa084e52d1852e4a2bd0685c315d2⟩

/-- The curve equation `y² = x³ + b'` of E' (R221). -/
def onTwist (x y : Fp2) : Bool := decide (y.mul y = ((x.mul x).mul x).add twistB)

/-- `is_valid_G1` (R223). -/
def isValidG1 : G1 → Bool
  | .infinity => true
  | .affine x y => onE x y

/-- `is_valid_G2` (R224). -/
def isValidG2 : G2 → Bool
  | .infinity => true
  | .affine x y => onTwist x y

/-- `[n]Q` on E' (R225); n has 254 bits (R9). -/
def smulOrder (q : G2) : G2 := q.smul fp2Ops groupOrder 254

/-- `in_G2` (R225): on the twist, with `[n]Q = O`. -/
def inG2 (q : G2) : Bool := isValidG2 q && decide (smulOrder q = .infinity)

/-- `decode_g1` (R227): range, then O, then the curve. -/
def decodeG1 (rx ry : Word) : Except ErrCode G1 :=
  match Fp.ofWord? rx, Fp.ofWord? ry with
  | some x, some y =>
    if x = Fp.zero ∧ y = Fp.zero then .ok .infinity
    else if onE x y then .ok (.affine x y)
    else .error .pointNotOnCurve
  | _, _ => .error .outOfRangeField

/-- `decode_g2` (R228): four limbs in wire order x.c1, x.c0, y.c1, y.c0 (R70); range, then O, then the curve, then
the subgroup. -/
def decodeG2 (r0 r1 r2 r3 : Word) : Except ErrCode G2 :=
  match Fp.ofWord? r0, Fp.ofWord? r1, Fp.ofWord? r2, Fp.ofWord? r3 with
  | some xc1, some xc0, some yc1, some yc0 =>
    let x : Fp2 := ⟨xc0, xc1⟩
    let y : Fp2 := ⟨yc0, yc1⟩
    if x = Fp2.zero ∧ y = Fp2.zero then .ok .infinity
    else if onTwist x y then
      if smulOrder (.affine x y) = .infinity then .ok (.affine x y) else .error .invalidSubgroup
    else .error .pointNotOnCurve
  | _, _, _, _ => .error .outOfRangeField

end Sys2Proof.Machine
end

