-- ==== Sys2Proof/Machine/Pairing.lean ====
section
/-! DEFINITION. The pairing engine: line values and steps, the Miller loop, the final exponentiation and the pairing
(43_pairing.md R260 to R269), and the product the aggregator forms (44_aggregate.md R300). -/

namespace Sys2Proof.Machine

/-- The Miller loop parameter `L = 6u + 2` (R9, R261). -/
def loopParam : Nat := 6 * bnParam + 2

/-- The stored x word of a G1 operand, 0 for O (R24, R262). -/
def G1.storedX : G1 → Fp
  | .infinity => Fp.zero
  | .affine x _ => x

/-- The stored y word of a G1 operand, 0 for O (R24, R262). -/
def G1.storedY : G1 → Fp
  | .infinity => Fp.zero
  | .affine _ y => y

/-- `line(lam, T, P)` for T = (xT, yT) (R262): `yP - λ·xP·w + (λ·xT - yT)·w³`. -/
def lineValue (lam xT yT : Fp2) (P : G1) : Fp12 :=
  ⟨⟨⟨G1.storedY P, Fp.zero⟩, Fp2.zero, Fp2.zero⟩,
   ⟨(lam.mul ⟨G1.storedX P, Fp.zero⟩).neg, (lam.mul xT).sub yT, Fp2.zero⟩⟩

/-- `vertical(xT, P)` (R262): `xP - xT·w²`. -/
def verticalValue (xT : Fp2) (P : G1) : Fp12 :=
  ⟨⟨⟨G1.storedX P, Fp.zero⟩, xT.neg, Fp2.zero⟩, Fp6.zero⟩

/-- `lineDbl(T, P)` (R263): the line value and 2T. -/
def lineDbl (T : G2) (P : G1) : Fp12 × G2 :=
  match T with
  | .infinity => (Fp12.one, .infinity)
  | .affine x y =>
    if y = Fp2.zero then (verticalValue x P, .infinity)
    else
      let lam := (((Fp2.ofNat 3).mul x).mul x).mul ((Fp2.ofNat 2).mul y).inv
      let x3 := (lam.mul lam).sub ((Fp2.ofNat 2).mul x)
      (lineValue lam x y P, .affine x3 ((lam.mul (x.sub x3)).sub y))

/-- `lineAdd(T, Q, P)` (R263): the line value and T + Q. -/
def lineAdd (T Q : G2) (P : G1) : Fp12 × G2 :=
  match T, Q with
  | .infinity, Q => (Fp12.one, Q)
  | .affine xT yT, .infinity => (Fp12.one, .affine xT yT)
  | .affine xT yT, .affine xQ yQ =>
    if xT = xQ then
      if yT = yQ then lineDbl (.affine xT yT) P else (verticalValue xT P, .infinity)
    else
      let lam := (yQ.sub yT).mul (xQ.sub xT).inv
      let x3 := ((lam.mul lam).sub xT).sub xQ
      (lineValue lam xT yT P, .affine x3 ((lam.mul (xT.sub x3)).sub yT))

/-- The Frobenius constant `g12 = ξ^((p-1)/3)` (R264). -/
def frobG12 : Fp2 :=
  ⟨Fp.ofNat 0x2fb347984f7911f74c0bec3cf559b143b78cc310c2c3330c99e39557176f553d,
   Fp.ofNat 0x16c9e55061ebae204ba4cc8bd75a079432ae2a1d0b7c9dce1665d51c640fcba2⟩

/-- The Frobenius constant `g13 = ξ^((p-1)/2)` (R264). -/
def frobG13 : Fp2 :=
  ⟨Fp.ofNat 0x063cf305489af5dcdc5ec698b6e2f9b9dbaae0eda9c95998dc54014671a0135a,
   Fp.ofNat 0x07c03cbcac41049a0704b5a7ec796f2b21807dc98fa25bd282d37f632623b0e3⟩

/-- The Frobenius constant `g22 = ξ^((p²-1)/3)` (R264). -/
def frobG22 : Fp2 :=
  ⟨Fp.ofNat 0x30644e72e131a0295e6dd9e7e0acccb0c28f069fbb966e3de4bd44e5607cfd48, Fp.zero⟩

/-- One pass of the Miller loop at a bit of L (R264): double, and add Q where the bit is 1. -/
def millerStep (P : G1) (Q : G2) (bit : Bool) (f : Fp12) (T : G2) : Fp12 × G2 :=
  let dbl := lineDbl T P
  let f2 := (f.mul f).mul dbl.1
  if bit then
    let add := lineAdd dbl.2 Q P
    (f2.mul add.1, add.2)
  else (f2, dbl.2)

/-- The Miller loop over the bits `i - 1` down to 0 of L (R264). -/
def millerLoop (P : G1) (Q : G2) : Nat → Fp12 → G2 → Fp12 × G2
  | 0, f, T => (f, T)
  | i + 1, f, T =>
    let r := millerStep P Q (loopParam.testBit i) f T
    millerLoop P Q i r.1 r.2

/-- `Q1 = π(Q)`, the first correction point (R264). -/
def frobPoint : G2 → G2
  | .infinity => .infinity
  | .affine x y => .affine (x.conj.mul frobG12) (y.conj.mul frobG13)

/-- `Q2n = -π²(Q)`, the second correction point (R264). -/
def frobPointNeg2 : G2 → G2
  | .infinity => .infinity
  | .affine x y => .affine (x.mul frobG22) y

/-- `MILLER(P, Q)` (R264): 1_12 when P or Q is O; else the loop from bit 63 down to 0 and the two correction
steps. -/
def miller (P : G1) (Q : G2) : Fp12 :=
  if P = .infinity ∨ Q = .infinity then Fp12.one
  else
    let r := millerLoop P Q 64 Fp12.one Q
    let c1 := lineAdd r.2 (frobPoint Q) P
    let c2 := lineAdd c1.2 (frobPointNeg2 Q) P
    (r.1.mul c1.1).mul c2.1

/-- The final exponent `FE = (p^12 - 1) / n`, an exact quotient of 2790 bits (R266). -/
def finalExponent : Nat := (p ^ 12 - 1) / groupOrder

/-- `f ^ FE`, the value FINEXP gives for `f ≠ 0` (R266). -/
def finalExp (f : Fp12) : Fp12 := binPow Fp12.mul Fp12.one f finalExponent 2790

/-- The pairing `e(P, Q) = FINEXP(MILLER(P, Q))` (R260). -/
def pairing (P : G1) (Q : G2) : Fp12 := finalExp (miller P Q)

/-- The product of the pairings of a list, in input order from 1_12 (R300). -/
def pairingProduct (pairs : List (G1 × G2)) : Fp12 :=
  pairs.foldl (fun acc pq => acc.mul (pairing pq.1 pq.2)) Fp12.one

end Sys2Proof.Machine
end

