-- ==== Sys2Proof/WellFormed.lean ====
section
/-! DEFINITION. Well-formed commands: every operand range lies inside the scratch file (30_encoding.md R92, R95),
the two destinations of a LINE command are disjoint (R98), and the limb of LDIB lies inside IBUF
(45_control.md R341). Every word decodes to a command or to IllegalOpcode whether or not the command is
well-formed (R100): an ill-formed command runs, and ends by raising BadOperand. -/

namespace Sys2Proof

/-- The `w` words from index `x` lie inside the scratch file: `X + W ≤ 256`, indices do not wrap (R95). -/
def fits (x : Idx) (w : Nat) : Bool := decide (x.toNat + w ≤ scratchWords)

/-- The destination ranges of a LINE command, S[D..D+12) and S[A..A+4), do not intersect (R98). -/
def lineDisjoint (d a : Idx) : Bool := !(decide (d.toNat < a.toNat + 4) && decide (a.toNat < d.toNat + 12))

/-- The 32-byte limb `k` lies inside an input buffer of `192 * maxPairs` bytes (R341). -/
def limbFits (maxPairs : Nat) (k : BitVec 16) : Bool := decide (32 * k.toNat + 32 ≤ 192 * maxPairs)

namespace Instr

/-- No operand of the command is one that R95, R98 or R341 refuses, on a block with `maxPairs` elements. -/
def wellFormed (maxPairs : Nat) : Instr → Bool
  | .nop => true
  | .evaluate => true
  | .ldib d k => fits d 1 && limbFits maxPairs k
  | .fpAdd d a b => fits d 1 && fits a 1 && fits b 1
  | .fpSub d a b => fits d 1 && fits a 1 && fits b 1
  | .fpNeg d a => fits d 1 && fits a 1
  | .fpMul d a b => fits d 1 && fits a 1 && fits b 1
  | .fpInv d a => fits d 1 && fits a 1
  | .fpEq a b => fits a 1 && fits b 1
  | .fp2Add d a b => fits d 2 && fits a 2 && fits b 2
  | .fp2Sub d a b => fits d 2 && fits a 2 && fits b 2
  | .fp2Neg d a => fits d 2 && fits a 2
  | .fp2Mul d a b => fits d 2 && fits a 2 && fits b 2
  | .fp2Inv d a => fits d 2 && fits a 2
  | .fp2Eq a b => fits a 2 && fits b 2
  | .fp6Add d a b => fits d 6 && fits a 6 && fits b 6
  | .fp6Sub d a b => fits d 6 && fits a 6 && fits b 6
  | .fp6Neg d a => fits d 6 && fits a 6
  | .fp6Mul d a b => fits d 6 && fits a 6 && fits b 6
  | .fp6Inv d a => fits d 6 && fits a 6
  | .fp6Eq a b => fits a 6 && fits b 6
  | .fp12Add d a b => fits d 12 && fits a 12 && fits b 12
  | .fp12Sub d a b => fits d 12 && fits a 12 && fits b 12
  | .fp12Neg d a => fits d 12 && fits a 12
  | .fp12Mul d a b => fits d 12 && fits a 12 && fits b 12
  | .fp12Inv d a => fits d 12 && fits a 12
  | .fp12Eq a b => fits a 12 && fits b 12
  | .decG1 d a => fits d 2 && fits a 2
  | .decG2 d a => fits d 4 && fits a 4
  | .g1Chk a => fits a 2
  | .g2Chk a => fits a 4
  | .g2Subgrp a => fits a 4
  | .lineDbl d a b => fits d 12 && fits a 4 && fits b 2 && lineDisjoint d a
  | .lineAdd d a b => fits d 12 && fits a 8 && fits b 2 && lineDisjoint d a
  | .miller d a b => fits d 12 && fits a 2 && fits b 4
  | .finexp d a => fits d 12 && fits a 12
  | .pair d a b => fits d 12 && fits a 2 && fits b 4
  | .accInit => true
  | .accPair a b => fits a 2 && fits b 4
  | .accCheck => true
  | .accStore d => fits d 12

end Instr

end Sys2Proof
end

