-- ==== Sys2Proof/Machine/Operands.lean ====
section
/-! DEFINITION. Operands in the scratch file: how each value type lies in consecutive words (10_state.md R23, R24), the
range check (30_encoding.md R95), the canonical check (40_field_fp.md R121, 41_field_ext.md R161), the point check
(43_pairing.md R268), and the command shapes that the families share (R97). -/

namespace Sys2Proof.Machine

/-! ### Layouts

A loader reads the words that `r` gives for the offsets 0, 1, 2, …; it gives no value where a word is ≥ p. A storer
lists the words of a value in ascending index. -/

/-- An Fp element: word 0 (R23). -/
def loadFp (r : Nat → Word) : Option Fp := Fp.ofWord? (r 0)

/-- An Fp2 element: c0 at word 0, c1 at word 1 (R23). -/
def loadFp2 (r : Nat → Word) : Option Fp2 :=
  match loadFp r, loadFp (fun k => r (k + 1)) with
  | some c0, some c1 => some ⟨c0, c1⟩
  | _, _ => none

/-- An Fp6 element: a0, a1, a2 at words 0, 2, 4 (R23). -/
def loadFp6 (r : Nat → Word) : Option Fp6 :=
  match loadFp2 r, loadFp2 (fun k => r (k + 2)), loadFp2 (fun k => r (k + 4)) with
  | some a0, some a1, some a2 => some ⟨a0, a1, a2⟩
  | _, _, _ => none

/-- An Fp12 element: g0, g1 at words 0, 6 (R23). -/
def loadFp12 (r : Nat → Word) : Option Fp12 :=
  match loadFp6 r, loadFp6 (fun k => r (k + 6)) with
  | some g0, some g1 => some ⟨g0, g1⟩
  | _, _ => none

/-- A G1 point: x at word 0, y at word 1, all zero for O (R23, R24). -/
def loadG1 (r : Nat → Word) : Option G1 :=
  match loadFp r, loadFp (fun k => r (k + 1)) with
  | some x, some y => some (Point.ofCoords Fp.zero x y)
  | _, _ => none

/-- A G2 point: x at words 0 and 1, y at words 2 and 3, all zero for O (R23, R24). -/
def loadG2 (r : Nat → Word) : Option G2 :=
  match loadFp2 r, loadFp2 (fun k => r (k + 2)) with
  | some x, some y => some (Point.ofCoords Fp2.zero x y)
  | _, _ => none

/-- The word of an Fp element (R23). -/
def storeFp (a : Fp) : List Word := [a.toWord]

/-- The two words of an Fp2 element (R23). -/
def storeFp2 (a : Fp2) : List Word := [a.c0.toWord, a.c1.toWord]

/-- The six words of an Fp6 element (R23). -/
def storeFp6 (a : Fp6) : List Word := storeFp2 a.a0 ++ storeFp2 a.a1 ++ storeFp2 a.a2

/-- The twelve words of an Fp12 element (R23). -/
def storeFp12 (a : Fp12) : List Word := storeFp6 a.g0 ++ storeFp6 a.g1

/-- The two words of a G1 point (R23, R24). -/
def storeG1 : G1 → List Word
  | .infinity => [0, 0]
  | .affine x y => [x.toWord, y.toWord]

/-- The four words of a G2 point (R23, R24). -/
def storeG2 : G2 → List Word
  | .infinity => [0, 0, 0, 0]
  | .affine x y => storeFp2 x ++ storeFp2 y

/-- How a field's elements lie in the scratch file, with the field's zero: what the arithmetic commands need. -/
structure Layout (α : Type) where
  width : Nat
  load : (Nat → Word) → Option α
  store : α → List Word
  zero : α

/-- Fp, one word. -/
def fpLayout : Layout Fp := ⟨1, loadFp, storeFp, Fp.zero⟩

/-- Fp2, two words. -/
def fp2Layout : Layout Fp2 := ⟨2, loadFp2, storeFp2, Fp2.zero⟩

/-- Fp6, six words. -/
def fp6Layout : Layout Fp6 := ⟨6, loadFp6, storeFp6, Fp6.zero⟩

/-- Fp12, twelve words. -/
def fp12Layout : Layout Fp12 := ⟨12, loadFp12, storeFp12, Fp12.zero⟩

/-! ### Reading an operand -/

/-- The words of the operand at index `x`: offset `k` is `S[x + k]` (R91). -/
def State.operand (s : State) (x : Idx) : Nat → Word := fun k => s.word (x.toNat + k)

/-- `check_range(X, W)`: BadOperand when X + W > 256 (R13, R95). -/
def checkRange (x : Idx) (w : Nat) : Cmd Unit := if fits x w then .ok () else .raise .badOperand

/-- The overlap check of the LINE commands (R98). -/
def checkLineOverlap (d a : Idx) : Cmd Unit := if lineDisjoint d a then .ok () else .raise .badOperand

/-- The canonical check: a loaded operand, or NonCanonicalOperand (R121, R161). -/
def canonical {α : Type} : Option α → Cmd α
  | some v => .ok v
  | none => .raise .nonCanonicalOperand

/-- The point check: InvalidOperandPoint unless the point is valid (R268). -/
def checkPoint (valid : Bool) : Cmd Unit := if valid then .ok () else .raise .invalidOperandPoint

/-! ### Command shapes -/

/-- `<op> sD, sA, sB` over a field: ranges, sources, then `S[D..) <- f(A, B)` (R97). -/
def binaryCmd {α : Type} (l : Layout α) (f : α → α → α) (d a b : Idx) (s : State) : Cmd Effect := do
  checkRange d l.width
  checkRange a l.width
  checkRange b l.width
  let x ← canonical (l.load (s.operand a))
  let y ← canonical (l.load (s.operand b))
  return { writes := [(d.toNat, l.store (f x y))] }

/-- `<op> sD, sA` over a field: ranges, source, then `S[D..) <- f(A)` (R97). -/
def unaryCmd {α : Type} (l : Layout α) (f : α → α) (d a : Idx) (s : State) : Cmd Effect := do
  checkRange d l.width
  checkRange a l.width
  let x ← canonical (l.load (s.operand a))
  return { writes := [(d.toNat, l.store (f x))] }

/-- `<op> sD, sA` where zero is refused: as `unaryCmd`, raising InverseOfZero on zero (R128, R165, R266). -/
def nonzeroCmd {α : Type} [DecidableEq α] (l : Layout α) (f : α → α) (d a : Idx) (s : State) : Cmd Effect := do
  checkRange d l.width
  checkRange a l.width
  let x ← canonical (l.load (s.operand a))
  if x = l.zero then .raise .inverseOfZero
  else return { writes := [(d.toNat, l.store (f x))] }

/-- `<op>_EQ sA, sB`: RESULT tells whether the operands are equal, word by word (R123, R161). -/
def equalCmd {α : Type} [DecidableEq α] (l : Layout α) (a b : Idx) (s : State) : Cmd Effect := do
  checkRange a l.width
  checkRange b l.width
  let x ← canonical (l.load (s.operand a))
  let y ← canonical (l.load (s.operand b))
  return { result := decide (x = y) }

/-- The operands P at `a` and Q at `b` of MILLER, PAIR and ACC_PAIR: canonical words of P then Q, then valid points, P
first (R268, R272). -/
def pairOperands (a b : Idx) (s : State) : Cmd (G1 × G2) := do
  let P ← canonical (loadG1 (s.operand a))
  let Q ← canonical (loadG2 (s.operand b))
  checkPoint (isValidG1 P)
  checkPoint (isValidG2 Q)
  return (P, Q)

end Sys2Proof.Machine
end

