-- ==== Sys2Proof/Machine/CurveCommands.lean ====
section
/-! DEFINITION. The curve commands, OP 0x50 to 0x54 (42_curve.md R230 to R234). -/

namespace Sys2Proof.Machine

/-- The error of a decoder as the fault of a command, with ERRINFO `info` (R230, R231, R310). -/
def decoded {α : Type} (info : BusWord) : Except ErrCode α → Cmd α
  | .ok v => .ok v
  | .error e => .error ⟨e, info⟩

/-- The body of DEC_G1 (R230): the raw words x, y; no canonical check (R121). -/
def decG1Cmd (d a : Idx) (s : State) : Cmd Effect := do
  checkRange d 2
  checkRange a 2
  let r := s.operand a
  let q ← decoded 0 (decodeG1 (r 0) (r 1))
  return { writes := [(d.toNat, storeG1 q)] }

/-- DEC_G1 (R230). -/
def execDecG1 (d a : Idx) (s : State) : Outcome := s.finish (decG1Cmd d a s)

/-- The body of DEC_G2 (R231): the raw words in wire order; no canonical check (R121). -/
def decG2Cmd (d a : Idx) (s : State) : Cmd Effect := do
  checkRange d 4
  checkRange a 4
  let r := s.operand a
  let q ← decoded 0 (decodeG2 (r 0) (r 1) (r 2) (r 3))
  return { writes := [(d.toNat, storeG2 q)] }

/-- DEC_G2 (R231). -/
def execDecG2 (d a : Idx) (s : State) : Outcome := s.finish (decG2Cmd d a s)

/-- The body of G1_CHK (R232). -/
def g1ChkCmd (a : Idx) (s : State) : Cmd Effect := do
  checkRange a 2
  let q ← canonical (loadG1 (s.operand a))
  return { result := isValidG1 q }

/-- G1_CHK (R232): RESULT ← is_valid_G1. -/
def execG1Chk (a : Idx) (s : State) : Outcome := s.finish (g1ChkCmd a s)

/-- The body of the tests on a G2 operand (R233, R234). -/
def g2TestCmd (test : G2 → Bool) (a : Idx) (s : State) : Cmd Effect := do
  checkRange a 4
  let q ← canonical (loadG2 (s.operand a))
  return { result := test q }

/-- G2_CHK (R233): RESULT ← is_valid_G2. -/
def execG2Chk (a : Idx) (s : State) : Outcome := s.finish (g2TestCmd isValidG2 a s)

/-- G2_SUBGRP (R234): RESULT ← in_G2. -/
def execG2Subgrp (a : Idx) (s : State) : Outcome := s.finish (g2TestCmd inG2 a s)

end Sys2Proof.Machine
end

