-- ==== Sys2Proof/Machine/AggregateCommands.lean ====
section
/-! DEFINITION. The aggregator commands, OP 0x70 to 0x73 (44_aggregate.md R302 to R305), and EVALUATE, OP 0x01
(R310 to R312). -/

namespace Sys2Proof.Machine

/-- ACC_INIT (R302): ACC ← 1_12. -/
def execAccInit (s : State) : Outcome := s.finish (.ok { acc := some Fp12.one })

/-- The body of ACC_PAIR (R303). -/
def accPairCmd (a b : Idx) (s : State) : Cmd Effect := do
  checkRange a 2
  checkRange b 4
  let pq ← pairOperands a b s
  return { acc := some (s.acc.mul (pairing pq.1 pq.2)) }

/-- ACC_PAIR (R303): ACC ← ACC · PAIR(P, Q). -/
def execAccPair (a b : Idx) (s : State) : Outcome := s.finish (accPairCmd a b s)

/-- ACC_CHECK (R304): RESULT ← (ACC = 1_12). -/
def execAccCheck (s : State) : Outcome := s.finish (.ok { result := decide (s.acc = Fp12.one) })

/-- The body of ACC_STORE (R305). -/
def accStoreCmd (d : Idx) (s : State) : Cmd Effect := do
  checkRange d 12
  return { writes := [(d.toNat, storeFp12 s.acc)] }

/-- ACC_STORE (R305): S[D..D+12) ← ACC. -/
def execAccStore (d : Idx) (s : State) : Outcome := s.finish (accStoreCmd d s)

/-- Decode element `i` of the input: its limbs are 6i to 6i+5 (20_memory.md R70); the G1 part first, then the G2 part,
an error with ERRINFO naming the element and the part (R310, R312). -/
def decodeElement (s : State) (i : Nat) : Cmd (G1 × G2) := do
  let P ← decoded (errInfoWord i false) (decodeG1 (s.limb (6 * i)) (s.limb (6 * i + 1)))
  let Q ← decoded (errInfoWord i true)
    (decodeG2 (s.limb (6 * i + 2)) (s.limb (6 * i + 3)) (s.limb (6 * i + 4)) (s.limb (6 * i + 5)))
  return (P, Q)

/-- Decode the `k` elements from element `i` on, in order, ending at the first that fails (R310, R311). -/
def decodeElements (s : State) : Nat → Nat → Cmd (List (G1 × G2))
  | _, 0 => .ok []
  | i, k + 1 => do
    let pq ← decodeElement s i
    let rest ← decodeElements s (i + 1) k
    return pq :: rest

/-- The body of EVALUATE (R310): the length checks, the whole decode phase, then the pairing phase. -/
def evaluateCmd (s : State) : Cmd Effect :=
  let len := s.len.toNat
  if len % 192 ≠ 0 then .raise .invalidInputLength
  else if len = 0 then .ok { acc := some Fp12.one, result := true }
  else if len > s.ibufBytes then .raise .capacityExceeded
  else do
    let pairs ← decodeElements s 0 (len / 192)
    let acc := pairingProduct pairs
    return { acc := some acc, result := decide (acc = Fp12.one) }

/-- EVALUATE (R310). -/
def execEvaluate (s : State) : Outcome := s.finish (evaluateCmd s)

end Sys2Proof.Machine
end

