-- ==== Sys2Proof/Machine/ControlCommands.lean ====
section
/-! DEFINITION. NOP, OP 0x00, and LDIB, OP 0x02 (45_control.md R340, R341). -/

namespace Sys2Proof.Machine

/-- NOP (R340): nothing but the completion. -/
def execNop (s : State) : Outcome := s.finish (.ok {})

/-- The body of LDIB (R341): the limb bound is that of the block's own IBUF. -/
def ldibCmd (d : Idx) (k : BitVec 16) (s : State) : Cmd Effect := do
  checkRange d 1
  if limbFits s.maxPairs k then return { writes := [(d.toNat, [s.limb k.toNat])] }
  else .raise .badOperand

/-- LDIB (R341): S[D] ← the 32-byte limb K of IBUF, with no canonical check. -/
def execLdib (d : Idx) (k : BitVec 16) (s : State) : Outcome := s.finish (ldibCmd d k s)

end Sys2Proof.Machine
end

