-- ==== Sys2Proof/Machine/Fp12Commands.lean ====
section
/-! DEFINITION. The Fp12 commands, OP 0x40 to 0x45 (41_field_ext.md R190 to R195). -/

namespace Sys2Proof.Machine

/-- FP12_ADD (R190): `S[D] <- A + B`. -/
def execFp12Add (d a b : Idx) (s : State) : Outcome := s.finish (binaryCmd fp12Layout Fp12.add d a b s)

/-- FP12_SUB (R191): `S[D] <- A - B`. -/
def execFp12Sub (d a b : Idx) (s : State) : Outcome := s.finish (binaryCmd fp12Layout Fp12.sub d a b s)

/-- FP12_NEG (R192): `S[D] <- -A`. -/
def execFp12Neg (d a : Idx) (s : State) : Outcome := s.finish (unaryCmd fp12Layout Fp12.neg d a s)

/-- FP12_MUL (R193): `S[D] <- A * B`. -/
def execFp12Mul (d a b : Idx) (s : State) : Outcome := s.finish (binaryCmd fp12Layout Fp12.mul d a b s)

/-- FP12_INV (R194): `S[D] <- A⁻¹`; InverseOfZero when A = 0. -/
def execFp12Inv (d a : Idx) (s : State) : Outcome := s.finish (nonzeroCmd fp12Layout Fp12.inv d a s)

/-- FP12_EQ (R195): RESULT ← (A = B). -/
def execFp12Eq (a b : Idx) (s : State) : Outcome := s.finish (equalCmd fp12Layout a b s)

end Sys2Proof.Machine
end

