-- ==== Sys2Proof/Machine/Fp2Commands.lean ====
section
/-! DEFINITION. The Fp2 commands, OP 0x20 to 0x25 (41_field_ext.md R170 to R175). -/

namespace Sys2Proof.Machine

/-- FP2_ADD (R170): `S[D] <- A + B`. -/
def execFp2Add (d a b : Idx) (s : State) : Outcome := s.finish (binaryCmd fp2Layout Fp2.add d a b s)

/-- FP2_SUB (R171): `S[D] <- A - B`. -/
def execFp2Sub (d a b : Idx) (s : State) : Outcome := s.finish (binaryCmd fp2Layout Fp2.sub d a b s)

/-- FP2_NEG (R172): `S[D] <- -A`. -/
def execFp2Neg (d a : Idx) (s : State) : Outcome := s.finish (unaryCmd fp2Layout Fp2.neg d a s)

/-- FP2_MUL (R173): `S[D] <- A * B`. -/
def execFp2Mul (d a b : Idx) (s : State) : Outcome := s.finish (binaryCmd fp2Layout Fp2.mul d a b s)

/-- FP2_INV (R174): `S[D] <- A⁻¹`; InverseOfZero when A = 0. -/
def execFp2Inv (d a : Idx) (s : State) : Outcome := s.finish (nonzeroCmd fp2Layout Fp2.inv d a s)

/-- FP2_EQ (R175): RESULT ← (A = B). -/
def execFp2Eq (a b : Idx) (s : State) : Outcome := s.finish (equalCmd fp2Layout a b s)

end Sys2Proof.Machine
end

