-- ==== Sys2Proof/Machine/Fp6Commands.lean ====
section
/-! DEFINITION. The Fp6 commands, OP 0x30 to 0x35 (41_field_ext.md R180 to R185). -/

namespace Sys2Proof.Machine

/-- FP6_ADD (R180): `S[D] <- A + B`. -/
def execFp6Add (d a b : Idx) (s : State) : Outcome := s.finish (binaryCmd fp6Layout Fp6.add d a b s)

/-- FP6_SUB (R181): `S[D] <- A - B`. -/
def execFp6Sub (d a b : Idx) (s : State) : Outcome := s.finish (binaryCmd fp6Layout Fp6.sub d a b s)

/-- FP6_NEG (R182): `S[D] <- -A`. -/
def execFp6Neg (d a : Idx) (s : State) : Outcome := s.finish (unaryCmd fp6Layout Fp6.neg d a s)

/-- FP6_MUL (R183): `S[D] <- A * B`. -/
def execFp6Mul (d a b : Idx) (s : State) : Outcome := s.finish (binaryCmd fp6Layout Fp6.mul d a b s)

/-- FP6_INV (R184): `S[D] <- A⁻¹`; InverseOfZero when A = 0. -/
def execFp6Inv (d a : Idx) (s : State) : Outcome := s.finish (nonzeroCmd fp6Layout Fp6.inv d a s)

/-- FP6_EQ (R185): RESULT ← (A = B). -/
def execFp6Eq (a b : Idx) (s : State) : Outcome := s.finish (equalCmd fp6Layout a b s)

end Sys2Proof.Machine
end

