-- ==== Sys2Proof/Machine/FpCommands.lean ====
section
/-! DEFINITION. The Fp commands, OP 0x10 to 0x15 (40_field_fp.md R124 to R129). -/

namespace Sys2Proof.Machine

/-- FP_ADD (R124): `S[D] <- A + B`. -/
def execFpAdd (d a b : Idx) (s : State) : Outcome := s.finish (binaryCmd fpLayout (fun x y => x + y) d a b s)

/-- FP_SUB (R125): `S[D] <- A - B`. -/
def execFpSub (d a b : Idx) (s : State) : Outcome := s.finish (binaryCmd fpLayout (fun x y => x - y) d a b s)

/-- FP_NEG (R126): `S[D] <- -A`. -/
def execFpNeg (d a : Idx) (s : State) : Outcome := s.finish (unaryCmd fpLayout (fun x => -x) d a s)

/-- FP_MUL (R127): `S[D] <- A * B`. -/
def execFpMul (d a b : Idx) (s : State) : Outcome := s.finish (binaryCmd fpLayout (fun x y => x * y) d a b s)

/-- FP_INV (R128): `S[D] <- A⁻¹`; InverseOfZero when A = 0. -/
def execFpInv (d a : Idx) (s : State) : Outcome := s.finish (nonzeroCmd fpLayout Fp.inv d a s)

/-- FP_EQ (R129): RESULT ← (A = B). -/
def execFpEq (a b : Idx) (s : State) : Outcome := s.finish (equalCmd fpLayout a b s)

end Sys2Proof.Machine
end

