-- ==== Sys2Proof/Machine/PairingCommands.lean ====
section
/-! DEFINITION. The pairing commands, OP 0x60 to 0x64 (43_pairing.md R268 to R274). -/

namespace Sys2Proof.Machine

/-- The effect of a line step: the line value at D, 1_12 instead when P = O (R269), and the new T over the old one at
A (R270, R271). -/
def lineEffect (d a : Idx) (P : G1) (r : Fp12 × G2) : Effect :=
  let l := if P = .infinity then Fp12.one else r.1
  { writes := [(d.toNat, storeFp12 l), (a.toNat, storeG2 r.2)] }

/-- The body of LINE_DBL (R270). -/
def lineDblCmd (d a b : Idx) (s : State) : Cmd Effect := do
  checkRange d 12
  checkRange a 4
  checkRange b 2
  checkLineOverlap d a
  let T ← canonical (loadG2 (s.operand a))
  let P ← canonical (loadG1 (s.operand b))
  checkPoint (isValidG2 T)
  checkPoint (isValidG1 P)
  return lineEffect d a P (lineDbl T P)

/-- LINE_DBL (R270): S[D..D+12) ← the line value, S[A..A+4) ← 2T. -/
def execLineDbl (d a b : Idx) (s : State) : Outcome := s.finish (lineDblCmd d a b s)

/-- The body of LINE_ADD (R271): T at A, Q at A + 4. -/
def lineAddCmd (d a b : Idx) (s : State) : Cmd Effect := do
  checkRange d 12
  checkRange a 8
  checkRange b 2
  checkLineOverlap d a
  let T ← canonical (loadG2 (s.operand a))
  let Q ← canonical (loadG2 (fun k => s.operand a (k + 4)))
  let P ← canonical (loadG1 (s.operand b))
  checkPoint (isValidG2 T)
  checkPoint (isValidG2 Q)
  checkPoint (isValidG1 P)
  return lineEffect d a P (lineAdd T Q P)

/-- LINE_ADD (R271): S[D..D+12) ← the line value, S[A..A+4) ← T + Q. -/
def execLineAdd (d a b : Idx) (s : State) : Outcome := s.finish (lineAddCmd d a b s)

/-- The body of MILLER and PAIR: `S[D..D+12) <- f(P, Q)` (R272, R274). -/
def pairCmd (f : G1 → G2 → Fp12) (d a b : Idx) (s : State) : Cmd Effect := do
  checkRange d 12
  checkRange a 2
  checkRange b 4
  let pq ← pairOperands a b s
  return { writes := [(d.toNat, storeFp12 (f pq.1 pq.2))] }

/-- MILLER (R272). -/
def execMiller (d a b : Idx) (s : State) : Outcome := s.finish (pairCmd miller d a b s)

/-- FINEXP (R266, R273): `S[D..D+12) <- f ^ FE`; InverseOfZero when f = 0. -/
def execFinexp (d a : Idx) (s : State) : Outcome := s.finish (nonzeroCmd fp12Layout finalExp d a s)

/-- PAIR (R274). -/
def execPair (d a b : Idx) (s : State) : Outcome := s.finish (pairCmd pairing d a b s)

end Sys2Proof.Machine
end

