-- ==== Sys2Proof/Machine/Dispatch.lean ====
section
/-! DEFINITION. One arm per command: the completion step of the command in flight (30_encoding.md R92, R97). -/

namespace Sys2Proof.Machine

def exec (i : Instr) (s : State) : Host.Outcome State Fault Refusal :=
  match i with
  | .nop => Sys2Proof.Machine.execNop s
  | .evaluate => Sys2Proof.Machine.execEvaluate s
  | .ldib d k => Sys2Proof.Machine.execLdib d k s
  | .fpAdd d a b => Sys2Proof.Machine.execFpAdd d a b s
  | .fpSub d a b => Sys2Proof.Machine.execFpSub d a b s
  | .fpNeg d a => Sys2Proof.Machine.execFpNeg d a s
  | .fpMul d a b => Sys2Proof.Machine.execFpMul d a b s
  | .fpInv d a => Sys2Proof.Machine.execFpInv d a s
  | .fpEq a b => Sys2Proof.Machine.execFpEq a b s
  | .fp2Add d a b => Sys2Proof.Machine.execFp2Add d a b s
  | .fp2Sub d a b => Sys2Proof.Machine.execFp2Sub d a b s
  | .fp2Neg d a => Sys2Proof.Machine.execFp2Neg d a s
  | .fp2Mul d a b => Sys2Proof.Machine.execFp2Mul d a b s
  | .fp2Inv d a => Sys2Proof.Machine.execFp2Inv d a s
  | .fp2Eq a b => Sys2Proof.Machine.execFp2Eq a b s
  | .fp6Add d a b => Sys2Proof.Machine.execFp6Add d a b s
  | .fp6Sub d a b => Sys2Proof.Machine.execFp6Sub d a b s
  | .fp6Neg d a => Sys2Proof.Machine.execFp6Neg d a s
  | .fp6Mul d a b => Sys2Proof.Machine.execFp6Mul d a b s
  | .fp6Inv d a => Sys2Proof.Machine.execFp6Inv d a s
  | .fp6Eq a b => Sys2Proof.Machine.execFp6Eq a b s
  | .fp12Add d a b => Sys2Proof.Machine.execFp12Add d a b s
  | .fp12Sub d a b => Sys2Proof.Machine.execFp12Sub d a b s
  | .fp12Neg d a => Sys2Proof.Machine.execFp12Neg d a s
  | .fp12Mul d a b => Sys2Proof.Machine.execFp12Mul d a b s
  | .fp12Inv d a => Sys2Proof.Machine.execFp12Inv d a s
  | .fp12Eq a b => Sys2Proof.Machine.execFp12Eq a b s
  | .decG1 d a => Sys2Proof.Machine.execDecG1 d a s
  | .decG2 d a => Sys2Proof.Machine.execDecG2 d a s
  | .g1Chk a => Sys2Proof.Machine.execG1Chk a s
  | .g2Chk a => Sys2Proof.Machine.execG2Chk a s
  | .g2Subgrp a => Sys2Proof.Machine.execG2Subgrp a s
  | .lineDbl d a b => Sys2Proof.Machine.execLineDbl d a b s
  | .lineAdd d a b => Sys2Proof.Machine.execLineAdd d a b s
  | .miller d a b => Sys2Proof.Machine.execMiller d a b s
  | .finexp d a => Sys2Proof.Machine.execFinexp d a s
  | .pair d a b => Sys2Proof.Machine.execPair d a b s
  | .accInit => Sys2Proof.Machine.execAccInit s
  | .accPair a b => Sys2Proof.Machine.execAccPair a b s
  | .accCheck => Sys2Proof.Machine.execAccCheck s
  | .accStore d => Sys2Proof.Machine.execAccStore d s

end Sys2Proof.Machine
end

