-- ==== Sys2Proof/Machine/HostBus.lean ====
section
/-! DEFINITION. The host's register window: the address map (20_memory.md R60 to R65), what a read returns, what a
write does, and the rules while BUSY = 1 (R66 to R69). -/

namespace Sys2Proof.Machine

/-- The registers of the window (10_state.md R27). -/
inductive Register where
  | id
  | ctrl
  | status
  | cmd
  | len
  | errInfo
  | caps
deriving DecidableEq, Repr

/-- What lies at a word-aligned offset of the window (R62). -/
inductive Region where
  | register (r : Register)
  /-- Bus word `j` of scratch word `k` (R64). -/
  | scratch (k j : Nat)
  /-- The input bytes `j` to `j + 3` (R65). -/
  | ibuf (j : Nat)
  | reserved
deriving DecidableEq, Repr

/-- The offset inside the window of the host address `addr`, if it lies in the window (R60, R61). -/
def windowOffset (addr : Nat) : Option (BitVec 16) :=
  if Config.base ≤ addr ∧ addr < Config.base + 0x10000 then some (BitVec.ofNat 16 (addr - Config.base)) else none

/-- The address map for an aligned offset, on a block with an input buffer of `ibufBytes` bytes (R62, R63). -/
def regionAt (ibufBytes off : Nat) : Region :=
  if off = 0x000 then .register .id
  else if off = 0x004 then .register .ctrl
  else if off = 0x008 then .register .status
  else if off = 0x00C then .register .cmd
  else if off = 0x010 then .register .len
  else if off = 0x014 then .register .errInfo
  else if off = 0x018 then .register .caps
  else if 0x2000 ≤ off ∧ off < 0x4000 then .scratch ((off - 0x2000) / 32) ((off - 0x2000) % 32 / 4)
  else if 0x8000 ≤ off ∧ off - 0x8000 < ibufBytes then .ibuf (off - 0x8000)
  else .reserved

/-- The one access the block performs: four bytes at a multiple of 4 (R61). -/
def aligned (size : AccessSize) (off : BitVec 16) : Bool := decide (size = .word) && decide (off.toNat % 4 = 0)

namespace State

/-- What a register reads as (R27 to R34, R462). -/
def readRegister (s : State) : Register → BusWord
  | .id => s.id
  | .ctrl => s.ctrlWord
  | .status => s.statusWord
  | .cmd => s.lastCmd
  | .len => s.len
  | .errInfo => s.errInfo
  | .caps => s.caps

/-- The four input bytes from `j`, `IB[j]` in bits 31:24 (R65). -/
def ibBusWord (s : State) (j : Nat) : BusWord := s.ibByte j ++ s.ibByte (j + 1) ++ s.ibByte (j + 2) ++ s.ibByte (j + 3)

/-- Put the four bytes of `v` at input index `j`, bits 31:24 at `j` (R65). -/
def setIbBusWord (s : State) (j : Nat) (v : BusWord) : State :=
  (((s.setIbByte j (v.extractLsb' 24 8)).setIbByte (j + 1) (v.extractLsb' 16 8)).setIbByte (j + 2)
    (v.extractLsb' 8 8)).setIbByte (j + 3) (v.extractLsb' 0 8)

/-- The host reads `v`: no state of the spec changes (R69). -/
def answer (s : State) (v : BusWord) : State := { s with readData := v }

/-- A read of storage the core may be using: a free draw (R68, U13). -/
def answerFree (s : State) : State := { s with readData := Config.busyRead s.draws, draws := s.draws + 1 }

/-- A dropped access: HERR is set and nothing else changes (R66, R67). -/
def drop (s : State) : State := { s with herr := true }

/-- An aligned 4-byte read at `off` (R63 to R65, R68, R69). -/
def busRead (s : State) (off : Nat) : State :=
  match regionAt s.ibufBytes off with
  | .register r => s.answer (s.readRegister r)
  | .scratch k j => if s.busy then s.answerFree else s.answer (busField (s.word k) j)
  | .ibuf j => if s.busy then s.answerFree else s.answer (s.ibBusWord j)
  | .reserved => s.answer 0

/-- A write to CTRL: SRST alone, or HERRCLR, DONECLR and IE (R29). Accepted whether BUSY is 0 or 1. -/
def writeCtrl (s : State) (v : BusWord) : State :=
  if v.getLsbD 0 then s.softReset
  else { s with
    herr := if v.getLsbD 1 then false else s.herr
    done := if v.getLsbD 2 then false else s.done
    ie := v.getLsbD 3 }

/-- An aligned 4-byte write at `off` (R27, R29, R31, R32, R63 to R66). A write to a read-only register or a reserved
offset is ignored, whether BUSY is 0 or 1. -/
def busWrite (s : State) (off : Nat) (v : BusWord) : State :=
  match regionAt s.ibufBytes off with
  | .register .ctrl => s.writeCtrl v
  | .register .cmd => if s.busy then s.drop else s.accept v
  | .register .len => if s.busy then s.drop else { s with len := v }
  | .register .id | .register .status | .register .errInfo | .register .caps => s
  | .scratch k j => if s.busy then s.drop else s.setWord k (setBusField (s.word k) j v)
  | .ibuf j => if s.busy then s.drop else s.setIbBusWord j v
  | .reserved => s

/-- One host access: an aligned 4-byte access is performed; any other is dropped, and a dropped read returns 0
(R61, R67). -/
def hostAccess (s : State) : HostAccess → State
  | .read size off => if aligned size off then s.busRead off.toNat else s.drop.answer 0
  | .write size off v => if aligned size off then s.busWrite off.toNat v else s.drop

end State

end Sys2Proof.Machine
end

