-- ==== Sys2Proof/Machine/Turns.lean ====
section
/-! DEFINITION. The moves of the two agents, of which `step` chooses one (70_reset_and_hazards.md R453): the core's
completion step and the host's next access. -/

namespace Sys2Proof.Machine

/-- The core's completion step: the command in LASTCMD, or IllegalOpcode (30_encoding.md R96, R97, R99). -/
def coreStep (s : State) : Outcome :=
  match decode s.lastCmd with
  | .ok i => exec i s
  | .error _ => .next (s.raise ⟨.illegalOpcode, 0⟩)

namespace State

/-- Whether the core moves next: a command is in flight, and the host has no access to make before its completion.
DESIGN CHOICE (log entry 25, safe): R453 and program P5 let the completion come before the host's next access, and R460
says that BUSY is 1 in the very next read after an accepted CMD write. The model follows R453: such a read shows BUSY = 1
where it comes before the completion, and may show BUSY = 0, DONE = 1. -/
def coreTurn (s : State) : Bool :=
  s.busy && (match s.pending with
    | [] => true
    | t :: _ => !t.whileBusy)

/-- The host's move: its next access; with none left an idle block stays as it is (60_exceptions.md R414). -/
def hostMove (s : State) : State :=
  match s.pending with
  | [] => s
  | t :: rest => { s with pending := rest }.hostAccess t.access

/-- Hold the host's next access back until BUSY = 0, so that the core moves first. -/
def holdHost (s : State) : State :=
  { s with pending := match s.pending with
      | [] => []
      | t :: rest => { t with whileBusy := false } :: rest }

end State

end Sys2Proof.Machine
end

