-- ==== Sys2Proof/Machine/Step.lean ====
section
/-! DEFINITION. One step of the block with its host (70_reset_and_hazards.md R453). -/

namespace Sys2Proof.Machine

/-- One step: the completion step of the command in flight when the core moves next, else the host's move (R453). -/
def step (s : State) : Host.Outcome State Fault Refusal := if s.coreTurn then coreStep s else .next s.hostMove

/-- The state in which the command word of the table, `w` in its low `nbits` bits, has just been accepted (R96) and
the core moves next: the next step runs that command. -/
def State.withFetchWord (s : State) (nbits w : Nat) : State := (s.accept (BitVec.ofNat 32 (w % 2 ^ nbits))).holdHost

end Sys2Proof.Machine
end

