-- ==== Sys2Proof/Safety.lean ====
section
/-! DEFINITION. The terms the claims are stated in: the invariant of the block, the tables of which command may do
what, and the predicates that say what a completion step changes and what it leaves. -/

namespace Sys2Proof.Machine

/-! ### The invariant -/

/-- What every state that a run reaches satisfies. -/
structure State.Inv (s : State) : Prop where
  /-- MAX_PAIRS is an integer from 1 to 170 (R8). -/
  maxPairs_pos : 1 ≤ s.maxPairs
  maxPairs_le : s.maxPairs ≤ 170
  /-- CAPS.NWORDS is SCRATCH_WORDS (R34). -/
  numWords_eq : s.numWords = scratchWords
  /-- The input buffer is in canonical form and lists only bytes that exist (R25). -/
  ibuf_wf : Memory.wf s.ibuf = true
  ibuf_lt : ∀ c ∈ s.ibuf, c.1 < s.ibufBytes
  /-- ERR = 0 exactly when ERRCODE = 0; ERR = 1 implies RESULT = 0 (R30). -/
  errCode_none : s.err = false → s.errCode = .none
  errCode_some : s.err = true → s.errCode ≠ .none
  result_of_err : s.err = true → s.result = false
  /-- BUSY = 1 implies DONE = ERR = RESULT = 0, ERRCODE = 0 (R30), and ERRINFO = 0 (R462). -/
  of_busy : s.busy = true → s.done = false ∧ s.err = false ∧ s.result = false ∧ s.errCode = .none ∧ s.errInfo = 0
  /-- ERRINFO: the reserved bits 31:17 read 0, ELEM names an element, and it is nonzero only with the error of a
  decode (R33, R312). -/
  errInfo_reserved : s.errInfo.extractLsb' 17 15 = 0
  errElem_lt : s.errElem.toNat < s.maxPairs
  errInfo_code : s.errInfo ≠ 0 →
    s.errCode = .outOfRangeField ∨ s.errCode = .pointNotOnCurve ∨ s.errCode = .invalidSubgroup

/-! ### Which command may do what -/

/-- The boolean-producing commands (10_state.md R35). -/
def producesResult : Instr → Bool
  | .fpEq _ _ | .fp2Eq _ _ | .fp6Eq _ _ | .fp12Eq _ _ | .g1Chk _ | .g2Chk _ | .g2Subgrp _ | .accCheck | .evaluate =>
    true
  | _ => false

/-- The commands that write ACC (10_state.md R26). -/
def writesAcc : Instr → Bool
  | .accInit | .accPair _ _ | .evaluate => true
  | _ => false

/-- The ranges (index, width) of the words a command reads as field elements, which the canonical check covers
(30_encoding.md R92, 40_field_fp.md R121). -/
def canonicalRanges : Instr → List (Nat × Nat)
  | .fpAdd _ a b | .fpSub _ a b | .fpMul _ a b | .fpEq a b => [(a.toNat, 1), (b.toNat, 1)]
  | .fpNeg _ a | .fpInv _ a => [(a.toNat, 1)]
  | .fp2Add _ a b | .fp2Sub _ a b | .fp2Mul _ a b | .fp2Eq a b => [(a.toNat, 2), (b.toNat, 2)]
  | .fp2Neg _ a | .fp2Inv _ a => [(a.toNat, 2)]
  | .fp6Add _ a b | .fp6Sub _ a b | .fp6Mul _ a b | .fp6Eq a b => [(a.toNat, 6), (b.toNat, 6)]
  | .fp6Neg _ a | .fp6Inv _ a => [(a.toNat, 6)]
  | .fp12Add _ a b | .fp12Sub _ a b | .fp12Mul _ a b | .fp12Eq a b => [(a.toNat, 12), (b.toNat, 12)]
  | .fp12Neg _ a | .fp12Inv _ a | .finexp _ a => [(a.toNat, 12)]
  | .g1Chk a => [(a.toNat, 2)]
  | .g2Chk a | .g2Subgrp a => [(a.toNat, 4)]
  | .lineDbl _ a b => [(a.toNat, 4), (b.toNat, 2)]
  | .lineAdd _ a b => [(a.toNat, 8), (b.toNat, 2)]
  | .miller _ a b | .pair _ a b | .accPair a b => [(a.toNat, 2), (b.toNat, 4)]
  | .nop | .evaluate | .ldib _ _ | .decG1 _ _ | .decG2 _ _ | .accInit | .accCheck | .accStore _ => []

/-- Whether a command has an operand, so that it can raise BadOperand (60_exceptions.md R401). -/
def hasOperand : Instr → Bool
  | .nop | .evaluate | .accInit | .accCheck => false
  | _ => true

/-- The `raised by` column of 60_exceptions.md R401, for the commands. -/
def mayRaise (i : Instr) : ErrCode → Bool
  | .none | .illegalOpcode => false
  | .invalidInputLength | .capacityExceeded => decide (i = .evaluate)
  | .outOfRangeField | .pointNotOnCurve =>
    match i with
    | .evaluate | .decG1 _ _ | .decG2 _ _ => true
    | _ => false
  | .invalidSubgroup =>
    match i with
    | .evaluate | .decG2 _ _ => true
    | _ => false
  | .badOperand => hasOperand i
  | .nonCanonicalOperand => !(canonicalRanges i).isEmpty
  | .inverseOfZero =>
    match i with
    | .fpInv _ _ | .fp2Inv _ _ | .fp6Inv _ _ | .fp12Inv _ _ | .finexp _ _ => true
    | _ => false
  | .invalidOperandPoint =>
    match i with
    | .lineDbl _ _ _ | .lineAdd _ _ _ | .miller _ _ _ | .pair _ _ _ | .accPair _ _ => true
    | _ => false

/-! ### What a completion step changes -/

/-- Every scratch word outside the ranges (index, width) is as before. -/
def SameOutside (s t : State) (rs : List (Nat × Nat)) : Prop :=
  ∀ k, (∀ r ∈ rs, k < r.1 ∨ r.1 + r.2 ≤ k) → t.word k = s.word k

/-- What no command changes: every byte of the input buffer, ID, CAPS, CTRL, STATUS.HERR, LASTCMD, LEN, and the model's
own fields. -/
structure Untouched (s t : State) : Prop where
  ibByte : ∀ j, t.ibByte j = s.ibByte j
  id : t.id = s.id
  caps : t.caps = s.caps
  ie : t.ie = s.ie
  herr : t.herr = s.herr
  lastCmd : t.lastCmd = s.lastCmd
  len : t.len = s.len
  pending : t.pending = s.pending
  readData : t.readData = s.readData
  draws : t.draws = s.draws

/-- A command ran from `s` to `t` without a fault: it wrote no scratch word outside `rs`, and its boolean result is
`result` (R96, R97). What became of ACC is said apart. -/
structure Ran (s t : State) (rs : List (Nat × Nat)) (result : Bool) : Prop where
  busy : t.busy = false
  done : t.done = true
  err : t.err = false
  errCode : t.errCode = .none
  errInfo : t.errInfo = 0
  result : t.result = result
  scratch : SameOutside s t rs
  rest : Untouched s t

/-- A command ended with `raise e(info)` (R400): the report, and no word of S, not ACC and nothing else. -/
structure Faulted (s t : State) (e : ErrCode) (info : BusWord) : Prop where
  busy : t.busy = false
  done : t.done = true
  err : t.err = true
  errCode : t.errCode = e
  errInfo : t.errInfo = info
  result : t.result = false
  scratch : ∀ k, t.word k = s.word k
  acc : t.acc = s.acc
  rest : Untouched s t

/-- The `w` words from index `x` exist (R95). -/
abbrev InFile (x : Idx) (w : Nat) : Prop := x.toNat + w ≤ scratchWords

/-- The `w` words from index `x` exist and are canonical (R95, R121). -/
abbrev CanonicalAt (s : State) (x : Idx) (w : Nat) : Prop :=
  InFile x w ∧ ∀ k < w, (s.word (x.toNat + k)).toNat < p

/-- The words from index `x` are those of the list. -/
abbrev HoldsAt (t : State) (x : Idx) (ws : List Word) : Prop :=
  ∀ k < ws.length, t.word (x.toNat + k) = (ws[k]?).getD 0

/-- `exec` answers a next state with `P`. -/
def Completes (i : Instr) (s : State) (P : State → Prop) : Prop := ∃ t, exec i s = .next t ∧ P t

/-- A command of the shape `<op> sD, sA, sB` over `w` words computes each destination word as `f` of the two source
words, for canonical sources, and changes nothing else. -/
def ActsWordwise (w : Nat) (mk : Idx → Idx → Idx → Instr) (f : Nat → Nat → Nat) : Prop :=
  ∀ (s : State) (d a b : Idx), InFile d w → CanonicalAt s a w → CanonicalAt s b w →
    Completes (mk d a b) s fun t =>
      (∀ k < w, (t.word (d.toNat + k)).toNat = f (s.word (a.toNat + k)).toNat (s.word (b.toNat + k)).toNat) ∧
        t.acc = s.acc ∧ Ran s t [(d.toNat, w)] false

/-- The same for the shape `<op> sD, sA`. -/
def ActsWordwise1 (w : Nat) (mk : Idx → Idx → Instr) (f : Nat → Nat) : Prop :=
  ∀ (s : State) (d a : Idx), InFile d w → CanonicalAt s a w →
    Completes (mk d a) s fun t =>
      (∀ k < w, (t.word (d.toNat + k)).toNat = f (s.word (a.toNat + k)).toNat) ∧
        t.acc = s.acc ∧ Ran s t [(d.toNat, w)] false

/-- A command of the shape `<op> sA, sB` over `w` words compares the source words, for canonical sources, and changes
nothing but the report. -/
def ComparesWords (w : Nat) (mk : Idx → Idx → Instr) : Prop :=
  ∀ (s : State) (a b : Idx), CanonicalAt s a w → CanonicalAt s b w →
    Completes (mk a b) s fun t =>
      (t.result = true ↔ ∀ k < w, s.word (a.toNat + k) = s.word (b.toNat + k)) ∧
        t.acc = s.acc ∧ Ran s t [] t.result

/-- A command of the shape `<op> sD, sA` over `w` words refuses the all-zero source. -/
def RefusesZero (w : Nat) (mk : Idx → Idx → Instr) : Prop :=
  ∀ (s : State) (d a : Idx), InFile d w → InFile a w → (∀ k < w, s.word (a.toNat + k) = 0) →
    Completes (mk d a) s fun t => Faulted s t .inverseOfZero 0

/-- The opcodes that no command has (30_encoding.md R99). -/
abbrev ReservedOpcode (op : Nat) : Prop :=
  (0x03 ≤ op ∧ op ≤ 0x0F) ∨ (0x16 ≤ op ∧ op ≤ 0x1F) ∨ (0x26 ≤ op ∧ op ≤ 0x2F) ∨ (0x36 ≤ op ∧ op ≤ 0x3F) ∨
    (0x46 ≤ op ∧ op ≤ 0x4F) ∨ (0x55 ≤ op ∧ op ≤ 0x5F) ∨ (0x65 ≤ op ∧ op ≤ 0x6F) ∨ (0x74 ≤ op ∧ op ≤ 0xFF)

/-- The offsets whose writes are dropped while BUSY = 1: CMD, LEN, the S window and the bytes of the IBUF window that
exist (20_memory.md R66). -/
abbrev BusyTarget (s : State) (off : Nat) : Prop :=
  off = 0x00C ∨ off = 0x010 ∨ (0x2000 ≤ off ∧ off < 0x4000) ∨ (0x8000 ≤ off ∧ off - 0x8000 < s.ibufBytes)

/-- The offsets that the window reserves (20_memory.md R62, R63). -/
abbrev ReservedOffset (s : State) (off : Nat) : Prop :=
  (0x01C ≤ off ∧ off < 0x2000) ∨ (0x4000 ≤ off ∧ off < 0x8000) ∨ 0x8000 + s.ibufBytes ≤ off

/-- The points of MILLER, PAIR and ACC_PAIR: canonical words of P at `a` and of Q at `b`, giving the points. -/
abbrev PairAt (s : State) (a b : Idx) (P : G1) (Q : G2) : Prop :=
  InFile a 2 ∧ InFile b 4 ∧ loadG1 (s.operand a) = some P ∧ loadG2 (s.operand b) = some Q

/-- The G1 part of element `i` of the input decodes as `decodeG1` answers (20_memory.md R70, R310). -/
def elementG1 (s : State) (i : Nat) : Except ErrCode G1 := decodeG1 (s.limb (6 * i)) (s.limb (6 * i + 1))

/-- The G2 part of element `i` of the input. -/
def elementG2 (s : State) (i : Nat) : Except ErrCode G2 :=
  decodeG2 (s.limb (6 * i + 2)) (s.limb (6 * i + 3)) (s.limb (6 * i + 4)) (s.limb (6 * i + 5))

/-! ### The words of a line value and the passes of the Miller loop -/

/-- The slope of the tangent at `(x, y)`: `(3·x·x) · inv2(2·y)` (43_pairing.md R263). -/
abbrev tangentSlope (x y : Fp2) : Fp2 := (((Fp2.ofNat 3).mul x).mul x).mul ((Fp2.ofNat 2).mul y).inv

/-- The slope of the chord through `(x1, y1)` and `(x2, y2)`: `(y2 - y1) · inv2(x2 - x1)` (R263). -/
abbrev chordSlope (x1 y1 x2 y2 : Fp2) : Fp2 := (y2.sub y1).mul (x2.sub x1).inv

/-- The twelve words of 1_12 (10_state.md R23). -/
def oneWords : List Word := [1, 0, 0, 0, 0, 0, 0, 0, 0, 0, 0, 0]

/-- The twelve words of a line value: word 0 = yP, words 6 and 7 = -λ·xP, words 8 and 9 = λ·xT - yT (R262). -/
def lineWords (lam xT yT : Fp2) (xP yP : Fp) : List Word :=
  [yP.toWord, 0, 0, 0, 0, 0, Fp.toWord (-(lam.c0 * xP)), Fp.toWord (-(lam.c1 * xP)),
    ((lam.mul xT).sub yT).c0.toWord, ((lam.mul xT).sub yT).c1.toWord, 0, 0]

/-- The twelve words of a vertical value: word 0 = xP, words 2 and 3 = -xT (R262). -/
def verticalWords (xT : Fp2) (xP : Fp) : List Word :=
  [xP.toWord, 0, Fp.toWord (-xT.c0), Fp.toWord (-xT.c1), 0, 0, 0, 0, 0, 0, 0, 0]

/-- The twelve words that LINE_DBL writes at D (R263, R269). -/
def dblLineWords : G2 → G1 → List Word
  | .affine x y, .affine xP yP =>
    if y = Fp2.zero then verticalWords x xP else lineWords (tangentSlope x y) x y xP yP
  | .infinity, _ | .affine _ _, .infinity => oneWords

/-- The twelve words that LINE_ADD writes at D (R263, R269). -/
def addLineWords : G2 → G2 → G1 → List Word
  | .affine xT yT, .affine xQ yQ, .affine xP yP =>
    if xT = xQ then
      if yT = yQ then dblLineWords (.affine xT yT) (.affine xP yP) else verticalWords xT xP
    else lineWords (chordSlope xT yT xQ yQ) xT yT xP yP
  | .infinity, _, _ | .affine _ _, .infinity, _ | .affine _ _, .affine _ _, .infinity => oneWords

/-- `f k` and `T k` are the value and the point of the Miller loop after `k` passes: from 1_12 and Q, pass `k` doubles,
and where bit `63 - k` of L = 0x19d797039be763ba8 is 1 it adds Q too (R264). -/
structure MillerPasses (P : G1) (Q : G2) (f : Nat → Fp12) (T : Nat → G2) : Prop where
  value_start : f 0 = Fp12.one
  point_start : T 0 = Q
  zero_bit : ∀ k < 64, Nat.testBit 0x19d797039be763ba8 (63 - k) = false →
    f (k + 1) = ((f k).mul (f k)).mul (lineDbl (T k) P).1 ∧ T (k + 1) = (lineDbl (T k) P).2
  one_bit : ∀ k < 64, Nat.testBit 0x19d797039be763ba8 (63 - k) = true →
    f (k + 1) = (((f k).mul (f k)).mul (lineDbl (T k) P).1).mul (lineAdd (lineDbl (T k) P).2 Q P).1 ∧
      T (k + 1) = (lineAdd (lineDbl (T k) P).2 Q P).2

/-! ### HERR -/

/-- The accesses that set STATUS.HERR (60_exceptions.md R404): one that is not an aligned 4-byte access, and a write to
CMD, LEN, S or IBUF while BUSY = 1. -/
abbrev AccessError (s : State) : HostAccess → Prop
  | .read size off => size ≠ .word ∨ off.toNat % 4 ≠ 0
  | .write size off _ => (size ≠ .word ∨ off.toNat % 4 ≠ 0) ∨ (s.busy = true ∧ BusyTarget s off.toNat)

/-- The accesses that clear STATUS.HERR (R404): a CTRL write with HERRCLR or SRST. -/
abbrev ClearsHerr : HostAccess → Prop
  | .read _ _ => False
  | .write size off v => size = .word ∧ off = 0x004 ∧ (v.getLsbD 0 = true ∨ v.getLsbD 1 = true)

end Sys2Proof.Machine
end

