-- ==== Sys2Proof/Certificates/Slice0/Obligations.lean ====
section
/-! DEFINITION. The statements for the provers. -/

open Sys2Proof Sys2Proof.Machine

/-! ### Encoding -/

/-- Words written out from the encodings of R92 and R101 decode to the commands they stand for. -/
def Obligations.DecodeReadsTheWordsOfTheSpec : Prop :=
  decode 0x10020001 = .ok (.fpAdd 2 0 1) ∧ decode 0x02050000 = .ok (.ldib 5 0) ∧
    decode 0x020003fb = .ok (.ldib 0 1019) ∧ decode 0x24020000 = .ok (.fp2Inv 2 0) ∧
    decode 0x35000006 = .ok (.fp6Eq 0 6) ∧ decode 0x4018000c = .ok (.fp12Add 24 0 12) ∧
    decode 0x510c0200 = .ok (.decG2 12 2) ∧ decode 0x6014020a = .ok (.lineDbl 20 2 10) ∧
    decode 0x71000602 = .ok (.accPair 6 2) ∧ decode 0x01ffffff = .ok .evaluate ∧
    decode 0x12010055 = .ok (.fpNeg 1 0)

/-- Decoding the word of a command gives the command back, for every operand (R90 to R92, R101). -/
def Obligations.DecodeOfEncodeIsTheCommand : Prop := ∀ i : Instr, decode (encode i) = .ok i

/-- An unused field is ignored, and the encoder writes 0 there (R94). -/
def Obligations.UnusedFieldsAreIgnored : Prop :=
  ∀ (c : BusWord) (i : Instr), decode c = .ok i →
    encode i = c &&& usedBits i ∧ ∀ c' : BusWord, c' &&& usedBits i = c &&& usedBits i → decode c' = .ok i

/-- Exactly the opcodes R99 lists are illegal, and such a command ends with IllegalOpcode, whatever the scratch file
holds. -/
def Obligations.ReservedOpcodesRaiseIllegalOpcode : Prop :=
  (∀ c : BusWord, ReservedOpcode (opField c).toNat ↔ decode c = .error (.illegalOpcode (opField c))) ∧
    (∀ c : BusWord, ¬ReservedOpcode (opField c).toNat ↔ ∃ i, decode c = .ok i) ∧
    ∀ s : State, s.coreTurn = true → ReservedOpcode (opField s.lastCmd).toNat →
      ∃ t, step s = .next t ∧ Faulted s t .illegalOpcode 0

/-! ### The step -/

/-- When the core moves next, the step is the completion step of the command in LASTCMD (R97, R453). -/
def Obligations.StepRunsTheDecodedCommand : Prop :=
  ∀ (s : State) (i : Instr), s.coreTurn = true → decode s.lastCmd = .ok i → step s = exec i s

/-- The host's next access is the step while BUSY = 0, and before the completion where it does not wait; an idle block
without an access stays as it is (R453, R414; the host's list is the model's, log entry 6). -/
def Obligations.HostAccessesComeInTurn : Prop :=
  (∀ (s : State) (h : HostTurn) (rest : List HostTurn), s.pending = h :: rest → (s.busy = false ∨ h.whileBusy = true) →
      step s = .next ({ s with pending := rest }.hostAccess h.access)) ∧
    ∀ s : State, s.pending = [] → s.busy = false → step s = .next s

/-- A command in flight ends after finitely many steps: no later than one step after the accesses the host still makes
(R453). -/
def Obligations.CommandInFlightEnds : Prop :=
  ∀ s : State, s.busy = true →
    ∃ (k : Nat) (t : State), k ≤ s.pending.length + 1 ∧ Sys2Proof.core.run k s = .next t ∧ t.busy = false

/-- No step stops, and every completion step clears BUSY, sets DONE, so that IRQ is then IE, and leaves IB, ID, CAPS,
CTRL, HERR, LASTCMD and LEN (R40, R96, R97). -/
def Obligations.EveryCommandCompletes : Prop :=
  (∀ s : State, ∃ t, step s = .next t) ∧
    ∀ (i : Instr) (s : State), Completes i s fun t => t.busy = false ∧ t.done = true ∧ t.irq = s.ie ∧ Untouched s t

/-! ### Whole-machine rules of the completion step -/

/-- A command that ends with an error leaves S, IB, ACC and LEN exactly as they were, and sets ERRINFO to something else
than 0 only where it is EVALUATE and the error is one of a decoder (R400). -/
def Obligations.FaultsArePrecise : Prop :=
  ∀ (i : Instr) (s t : State), exec i s = .next t → t.err = true →
    ∃ (e : ErrCode) (info : BusWord), e ≠ .none ∧ Faulted s t e info ∧
      (info ≠ 0 → i = .evaluate ∧ (e = .outOfRangeField ∨ e = .pointNotOnCurve ∨ e = .invalidSubgroup))

/-- A command writes no scratch word outside its destination ranges, and ACC only if it is ACC_INIT, ACC_PAIR or
EVALUATE (R92, R26). -/
def Obligations.CommandsWriteOnlyTheirDestinations : Prop :=
  ∀ (i : Instr) (s t : State), exec i s = .next t →
    (∀ k, k ∉ rangeWords (destRanges i) → t.word k = s.word k) ∧ (writesAcc i = false → t.acc = s.acc)

/-- The report of a command: RESULT = 1 only from a boolean-producing command, an error code only where the table of
R401 lists the command, and ERRINFO nonzero only for a decode error of EVALUATE, naming an element of the input. -/
def Obligations.ReportIsAsTheTablesList : Prop :=
  ∀ (i : Instr) (s t : State), exec i s = .next t →
    (t.result = true → producesResult i = true) ∧
      (t.err = true → mayRaise i t.errCode = true) ∧
      (t.errInfo ≠ 0 → i = .evaluate ∧ 192 * t.errElem.toNat < s.len.toNat ∧
        (t.errCode = .outOfRangeField ∨ t.errCode = .pointNotOnCurve ∨ t.errCode = .invalidSubgroup))

/-- BadOperand is raised for exactly the ill-formed commands, whatever the words hold: an operand range beyond S, the
overlap of the LINE destinations, or an LDIB limb beyond IBUF (R95, R98, R341). -/
def Obligations.BadOperandExactlyForIllFormedCommands : Prop :=
  ∀ (i : Instr) (s : State),
    (i.wellFormed s.maxPairs = false → Completes i s fun t => Faulted s t .badOperand 0) ∧
      (i.wellFormed s.maxPairs = true → ∀ t, exec i s = .next t → t.errCode ≠ .badOperand)

/-- A well-formed command raises NonCanonicalOperand exactly when a word that it reads as a field element is ≥ p
(R121, R161). -/
def Obligations.NonCanonicalExactlyForLargeWords : Prop :=
  ∀ (i : Instr) (s : State), i.wellFormed s.maxPairs = true →
    ((∃ r ∈ canonicalRanges i, ∃ k < r.2, p ≤ (s.word (r.1 + k)).toNat) ↔
      Completes i s fun t => Faulted s t .nonCanonicalOperand 0)

/-- The inversions and FINEXP refuse zero (R128, R165, R266). -/
def Obligations.InversionRefusesZero : Prop :=
  RefusesZero 1 .fpInv ∧ RefusesZero 2 .fp2Inv ∧ RefusesZero 6 .fp6Inv ∧ RefusesZero 12 .fp12Inv ∧
    RefusesZero 12 .finexp

/-- The pairing commands raise InvalidOperandPoint when the points are canonical and one of them is neither on its curve
nor O (R268). -/
def Obligations.OffCurveOperandsAreRefused : Prop :=
  (∀ (s : State) (d a b : Idx) (T : G2) (P : G1), (Instr.lineDbl d a b).wellFormed s.maxPairs = true →
      loadG2 (s.operand a) = some T → loadG1 (s.operand b) = some P → (isValidG2 T = false ∨ isValidG1 P = false) →
      Completes (.lineDbl d a b) s fun t => Faulted s t .invalidOperandPoint 0) ∧
    (∀ (s : State) (d a b : Idx) (T Q : G2) (P : G1), (Instr.lineAdd d a b).wellFormed s.maxPairs = true →
      loadG2 (s.operand a) = some T → loadG2 (fun k => s.operand a (k + 4)) = some Q →
      loadG1 (s.operand b) = some P → (isValidG2 T = false ∨ isValidG2 Q = false ∨ isValidG1 P = false) →
      Completes (.lineAdd d a b) s fun t => Faulted s t .invalidOperandPoint 0) ∧
    ∀ (s : State) (d a b : Idx) (P : G1) (Q : G2), InFile d 12 → PairAt s a b P Q →
      (isValidG1 P = false ∨ isValidG2 Q = false) →
      (Completes (.miller d a b) s fun t => Faulted s t .invalidOperandPoint 0) ∧
        (Completes (.pair d a b) s fun t => Faulted s t .invalidOperandPoint 0) ∧
        Completes (.accPair a b) s fun t => Faulted s t .invalidOperandPoint 0

/-! ### Invariant and reset -/

/-- The reset state satisfies the invariant. -/
def Obligations.ResetMeetsTheInvariant : Prop := State.reset.Inv

/-- Every step, of the core or of the host, keeps the invariant: the registers' own (R8, R30, R33, R34), and that the
input buffer keeps its canonical form inside its size. -/
def Obligations.StepKeepsTheInvariant : Prop := ∀ s t : State, s.Inv → step s = .next t → t.Inv

/-- ID and CAPS never change (R28, R34). -/
def Obligations.IdAndCapsNeverChange : Prop := ∀ s t : State, step s = .next t → t.id = s.id ∧ t.caps = s.caps

/-- What reset leaves in every piece of state to which the spec gives a reset value (R43, R450), on a block with the
default MAX_PAIRS (R27), and that the block then waits. -/
def Obligations.ResetStateIsTheSpecs : Prop :=
  State.reset.acc = Fp12.one ∧ State.reset.readRegister .id = Config.idValue ∧
    State.reset.readRegister .ctrl = 0 ∧ State.reset.readRegister .status = 0 ∧ State.reset.readRegister .cmd = 0 ∧
    State.reset.readRegister .len = 0 ∧ State.reset.readRegister .errInfo = 0 ∧
    State.reset.readRegister .caps = 0x010000AA ∧ State.reset.irq = false ∧ step State.reset = .next State.reset

/-- A CTRL write with bit 0 set is a soft reset, whether BUSY is 0 or 1: every register and ACC at its reset value, S and
IB as they were but for the destination words of a command in flight (R451). -/
def Obligations.SoftResetIsTheSpecs : Prop :=
  ∀ (s : State) (v : BusWord), v.getLsbD 0 = true →
    ∃ t, s.hostAccess (.write .word 0x004 v) = t ∧ t.acc = Fp12.one ∧ t.ie = false ∧ t.busy = false ∧
      t.done = false ∧ t.err = false ∧ t.result = false ∧ t.herr = false ∧ t.errCode = .none ∧ t.lastCmd = 0 ∧
      t.len = 0 ∧ t.errInfo = 0 ∧ t.id = s.id ∧ t.caps = s.caps ∧ (∀ j, t.ibByte j = s.ibByte j) ∧
      ∀ k, (s.busy = false ∨ k ∉ destWords s.lastCmd) → t.word k = s.word k

/-- A CTRL write applies SRST alone, or HERRCLR, DONECLR and IE, whether BUSY is 0 or 1, and a read of CTRL returns IE
in bit 3 and 0 elsewhere (R29). -/
def Obligations.CtrlWriteActsByItsBits : Prop :=
  ∀ (s : State) (v : BusWord),
    (v.getLsbD 0 = true → s.hostAccess (.write .word 0x004 v) = s.softReset) ∧
      (v.getLsbD 0 = false → s.hostAccess (.write .word 0x004 v) =
        { s with herr := s.herr && !v.getLsbD 1, done := s.done && !v.getLsbD 2, ie := v.getLsbD 3 }) ∧
      (s.hostAccess (.read .word 0x004)).readData = if s.ie then 8 else 0

/-! ### Field commands -/

/-- FP_ADD, FP2_ADD, FP6_ADD and FP12_ADD add word by word modulo p (R124, R162 to R164). -/
def Obligations.AddIsWordwiseModP : Prop :=
  ActsWordwise 1 .fpAdd (fun x y => (x + y) % p) ∧ ActsWordwise 2 .fp2Add (fun x y => (x + y) % p) ∧
    ActsWordwise 6 .fp6Add (fun x y => (x + y) % p) ∧ ActsWordwise 12 .fp12Add (fun x y => (x + y) % p)

/-- FP_SUB, FP2_SUB, FP6_SUB and FP12_SUB subtract word by word modulo p: a - b, or a - b + p where a < b (R125). -/
def Obligations.SubIsWordwiseModP : Prop :=
  ActsWordwise 1 .fpSub (fun x y => if y ≤ x then x - y else x + p - y) ∧
    ActsWordwise 2 .fp2Sub (fun x y => if y ≤ x then x - y else x + p - y) ∧
    ActsWordwise 6 .fp6Sub (fun x y => if y ≤ x then x - y else x + p - y) ∧
    ActsWordwise 12 .fp12Sub (fun x y => if y ≤ x then x - y else x + p - y)

/-- FP_NEG, FP2_NEG, FP6_NEG and FP12_NEG negate word by word modulo p, 0 giving 0 (R126). -/
def Obligations.NegIsWordwiseModP : Prop :=
  ActsWordwise1 1 .fpNeg (fun x => (p - x) % p) ∧ ActsWordwise1 2 .fp2Neg (fun x => (p - x) % p) ∧
    ActsWordwise1 6 .fp6Neg (fun x => (p - x) % p) ∧ ActsWordwise1 12 .fp12Neg (fun x => (p - x) % p)

/-- FP_EQ, FP2_EQ, FP6_EQ and FP12_EQ compare word by word (R123, R129, R161). -/
def Obligations.EqComparesWordByWord : Prop :=
  ComparesWords 1 .fpEq ∧ ComparesWords 2 .fp2Eq ∧ ComparesWords 6 .fp6Eq ∧ ComparesWords 12 .fp12Eq

/-- FP_MUL writes the product modulo p (R127), and FP_INV of a nonzero word its power p - 2 (R128). -/
def Obligations.FpMulAndInvWriteTheResidue : Prop :=
  ActsWordwise 1 .fpMul (fun x y => x * y % p) ∧
    ∀ (s : State) (d a : Idx), CanonicalAt s a 1 → (s.word a.toNat).toNat ≠ 0 →
      Completes (.fpInv d a) s fun t =>
        (t.word d.toNat).toNat = (s.word a.toNat).toNat ^ (p - 2) % p ∧ t.acc = s.acc ∧ Ran s t [(d.toNat, 1)] false

/-- FP2_MUL writes `(a0·b0 - a1·b1, a0·b1 + a1·b0)` modulo p (R162, R173). -/
def Obligations.Fp2MulWritesTheProduct : Prop :=
  ∀ (s : State) (d a b : Idx), InFile d 2 → CanonicalAt s a 2 → CanonicalAt s b 2 →
    Completes (.fp2Mul d a b) s fun t =>
      ((t.word d.toNat).toNat : Int) =
          ((s.word a.toNat).toNat * (s.word b.toNat).toNat -
            (s.word (a.toNat + 1)).toNat * (s.word (b.toNat + 1)).toNat : Int) % p ∧
        (t.word (d.toNat + 1)).toNat =
          ((s.word a.toNat).toNat * (s.word (b.toNat + 1)).toNat +
            (s.word (a.toNat + 1)).toNat * (s.word b.toNat).toNat) % p ∧
        t.acc = s.acc ∧ Ran s t [(d.toNat, 2)] false

/-- FP6_MUL and FP12_MUL write the products of the tower: `v³ = ξ` and `w² = v` (R163, R164, R183, R193). -/
def Obligations.TowerMulWritesTheProduct : Prop :=
  (∀ (s : State) (d a b : Idx) (x y : Fp6), InFile d 6 → InFile a 6 → InFile b 6 →
      loadFp6 (s.operand a) = some x → loadFp6 (s.operand b) = some y →
      Completes (.fp6Mul d a b) s fun t =>
        loadFp6 (t.operand d) = some
            ⟨(x.a0.mul y.a0).add (Fp2.xi.mul ((x.a1.mul y.a2).add (x.a2.mul y.a1))),
             ((x.a0.mul y.a1).add (x.a1.mul y.a0)).add (Fp2.xi.mul (x.a2.mul y.a2)),
             ((x.a0.mul y.a2).add (x.a1.mul y.a1)).add (x.a2.mul y.a0)⟩ ∧
          t.acc = s.acc ∧ Ran s t [(d.toNat, 6)] false) ∧
    ∀ (s : State) (d a b : Idx) (x y : Fp12), InFile d 12 → InFile a 12 → InFile b 12 →
      loadFp12 (s.operand a) = some x → loadFp12 (s.operand b) = some y →
      Completes (.fp12Mul d a b) s fun t =>
        loadFp12 (t.operand d) = some
            ⟨(x.g0.mul y.g0).add (Fp6.mul ⟨Fp2.zero, Fp2.one, Fp2.zero⟩ (x.g1.mul y.g1)),
             (x.g0.mul y.g1).add (x.g1.mul y.g0)⟩ ∧
          t.acc = s.acc ∧ Ran s t [(d.toNat, 12)] false

/-- FP2_INV, FP6_INV and FP12_INV of a nonzero element write `inv2`, `inv6` and `inv12` of it (R162 to R164, R174, R184,
R194). -/
def Obligations.TowerInvWritesTheInverse : Prop :=
  (∀ (s : State) (d a : Idx) (x : Fp2), InFile d 2 → InFile a 2 → loadFp2 (s.operand a) = some x → x ≠ Fp2.zero →
      Completes (.fp2Inv d a) s fun t =>
        HoldsAt t d (storeFp2 x.inv) ∧ t.acc = s.acc ∧ Ran s t [(d.toNat, 2)] false) ∧
    (∀ (s : State) (d a : Idx) (x : Fp6), InFile d 6 → InFile a 6 → loadFp6 (s.operand a) = some x → x ≠ Fp6.zero →
      Completes (.fp6Inv d a) s fun t =>
        HoldsAt t d (storeFp6 x.inv) ∧ t.acc = s.acc ∧ Ran s t [(d.toNat, 6)] false) ∧
    ∀ (s : State) (d a : Idx) (x : Fp12), InFile d 12 → InFile a 12 → loadFp12 (s.operand a) = some x →
      x ≠ Fp12.zero →
      Completes (.fp12Inv d a) s fun t =>
        HoldsAt t d (storeFp12 x.inv) ∧ t.acc = s.acc ∧ Ran s t [(d.toNat, 12)] false

/-- `inv_p` is the one multiplicative inverse in Fp (R14, R128, R165). -/
def Obligations.FpInverseIsUnique : Prop :=
  ∀ x : Fp, x ≠ Fp.zero → x * x.inv = Fp.one ∧ ∀ y : Fp, x * y = Fp.one → y = x.inv

/-- `inv2` is the one multiplicative inverse in Fp2 (R162, R165). -/
def Obligations.Fp2InverseIsUnique : Prop :=
  ∀ x : Fp2, x ≠ Fp2.zero → x.mul x.inv = Fp2.one ∧ ∀ y : Fp2, x.mul y = Fp2.one → y = x.inv

/-- `inv6` is the one multiplicative inverse in Fp6 (R163, R165). -/
def Obligations.Fp6InverseIsUnique : Prop :=
  ∀ x : Fp6, x ≠ Fp6.zero → x.mul x.inv = Fp6.one ∧ ∀ y : Fp6, x.mul y = Fp6.one → y = x.inv

/-- `inv12` is the one multiplicative inverse in Fp12 (R164, R165). -/
def Obligations.Fp12InverseIsUnique : Prop :=
  ∀ x : Fp12, x ≠ Fp12.zero → x.mul x.inv = Fp12.one ∧ ∀ y : Fp12, x.mul y = Fp12.one → y = x.inv

/-- Multiplication in Fp12 is commutative and associative with identity 1_12, so the product of a list of pairings does
not depend on its order (R164, R300). -/
def Obligations.PairingProductIgnoresOrder : Prop :=
  (∀ x y : Fp12, x.mul y = y.mul x) ∧ (∀ x y z : Fp12, (x.mul y).mul z = x.mul (y.mul z)) ∧
    (∀ x : Fp12, x.mul Fp12.one = x) ∧
    ∀ l l' : List (G1 × G2), l.Perm l' → pairingProduct l = pairingProduct l'

/-! ### Curve commands -/

/-- The hardwired constants satisfy the relations the spec gives for them (R9, R160, R221, R261, R264, R266). -/
def Obligations.ConstantsSatisfyTheirRelations : Prop :=
  p = 36 * bnParam ^ 4 + 36 * bnParam ^ 3 + 24 * bnParam ^ 2 + 6 * bnParam + 1 ∧
    groupOrder = 36 * bnParam ^ 4 + 36 * bnParam ^ 3 + 18 * bnParam ^ 2 + 6 * bnParam + 1 ∧
    loopParam = 0x19d797039be763ba8 ∧ groupOrder * finalExponent = p ^ 12 - 1 ∧
    Fp2.xi = ⟨Fp.ofNat 9, Fp.ofNat 1⟩ ∧ twistB.mul Fp2.xi = Fp2.ofNat 3 ∧
    frobG12 = binPow Fp2.mul Fp2.one Fp2.xi ((p - 1) / 3) 254 ∧
    frobG13 = binPow Fp2.mul Fp2.one Fp2.xi ((p - 1) / 2) 254 ∧
    frobG22 = binPow Fp2.mul Fp2.one Fp2.xi ((p ^ 2 - 1) / 3) 508

/-- DEC_G1 reports a word ≥ p, then a point that is not all zero and off E, and writes any other point as it was read
(R227, R230). -/
def Obligations.DecG1DecodesInOrder : Prop :=
  ∀ (s : State) (d a : Idx) (x y : Nat), InFile d 2 → InFile a 2 → (s.word a.toNat).toNat = x →
    (s.word (a.toNat + 1)).toNat = y →
    (p ≤ x ∨ p ≤ y → Completes (.decG1 d a) s fun t => Faulted s t .outOfRangeField 0) ∧
      (x < p → y < p → ¬(x = 0 ∧ y = 0) → y * y % p ≠ (x * x * x + 3) % p →
        Completes (.decG1 d a) s fun t => Faulted s t .pointNotOnCurve 0) ∧
      (x < p → y < p → (x = 0 ∧ y = 0) ∨ y * y % p = (x * x * x + 3) % p →
        Completes (.decG1 d a) s fun t =>
          t.word d.toNat = s.word a.toNat ∧ t.word (d.toNat + 1) = s.word (a.toNat + 1) ∧ t.acc = s.acc ∧
            Ran s t [(d.toNat, 2)] false)

/-- DEC_G2 reports a word ≥ p, then a point that is not all zero and off E', then a point outside G2, and writes any
other point with each pair of words swapped from wire order to (c0, c1) order (R228, R231). -/
def Obligations.DecG2DecodesInOrder : Prop :=
  ∀ (s : State) (d a : Idx), InFile d 4 → InFile a 4 →
    ((∃ k < 4, p ≤ (s.word (a.toNat + k)).toNat) →
        Completes (.decG2 d a) s fun t => Faulted s t .outOfRangeField 0) ∧
      ∀ x y : Fp2,
        (s.word a.toNat).toNat = x.c1.val → (s.word (a.toNat + 1)).toNat = x.c0.val →
        (s.word (a.toNat + 2)).toNat = y.c1.val → (s.word (a.toNat + 3)).toNat = y.c0.val →
        (¬(x = Fp2.zero ∧ y = Fp2.zero) → onTwist x y = false →
            Completes (.decG2 d a) s fun t => Faulted s t .pointNotOnCurve 0) ∧
          (¬(x = Fp2.zero ∧ y = Fp2.zero) → onTwist x y = true → smulOrder (.affine x y) ≠ .infinity →
            Completes (.decG2 d a) s fun t => Faulted s t .invalidSubgroup 0) ∧
          ((x = Fp2.zero ∧ y = Fp2.zero) ∨ (onTwist x y = true ∧ smulOrder (.affine x y) = .infinity) →
            Completes (.decG2 d a) s fun t =>
              t.word d.toNat = s.word (a.toNat + 1) ∧ t.word (d.toNat + 1) = s.word a.toNat ∧
                t.word (d.toNat + 2) = s.word (a.toNat + 3) ∧ t.word (d.toNat + 3) = s.word (a.toNat + 2) ∧
                t.acc = s.acc ∧ Ran s t [(d.toNat, 4)] false)

/-- G1_CHK, G2_CHK and G2_SUBGRP report the predicates is_valid_G1, is_valid_G2 and in_G2 of a canonical point and change
nothing else (R232 to R234). -/
def Obligations.ChecksReportTheirPredicates : Prop :=
  (∀ (s : State) (a : Idx), CanonicalAt s a 2 →
      Completes (.g1Chk a) s fun t =>
        (t.result = true ↔ ((s.word a.toNat).toNat = 0 ∧ (s.word (a.toNat + 1)).toNat = 0) ∨
          (s.word (a.toNat + 1)).toNat ^ 2 % p = ((s.word a.toNat).toNat ^ 3 + 3) % p) ∧
          t.acc = s.acc ∧ Ran s t [] t.result) ∧
    ∀ (s : State) (a : Idx) (x y : Fp2), InFile a 4 → loadFp2 (s.operand a) = some x →
      loadFp2 (fun k => s.operand a (k + 2)) = some y →
      (Completes (.g2Chk a) s fun t =>
          (t.result = true ↔ (x = Fp2.zero ∧ y = Fp2.zero) ∨ y.mul y = ((x.mul x).mul x).add twistB) ∧
            t.acc = s.acc ∧ Ran s t [] t.result) ∧
        Completes (.g2Subgrp a) s fun t =>
          (t.result = true ↔ (x = Fp2.zero ∧ y = Fp2.zero) ∨
            (y.mul y = ((x.mul x).mul x).add twistB ∧ smulOrder (.affine x y) = .infinity)) ∧
            t.acc = s.acc ∧ Ran s t [] t.result

/-- The `[n]Q` of the subgroup test is n additions of Q to O, by the group law (R222, R225), for every point of E'; the
model's double-and-add is its choice of method (log entry 14). -/
def Obligations.SmulOrderIsTheRepeatedSum : Prop :=
  ∀ q : G2, isValidG2 q = true → smulOrder q = (fun t => Point.add fp2Ops t q)^[groupOrder] .infinity

/-- Decoding the wire encoding of a valid point gives the point back (R229). -/
def Obligations.DecodersInvertTheWireEncoding : Prop :=
  (∀ q : G1, isValidG1 q = true →
      decodeG1 (((storeG1 q)[0]?).getD 0) (((storeG1 q)[1]?).getD 0) = .ok q) ∧
    ∀ q : G2, inG2 q = true →
      decodeG2 (((storeG2 q)[1]?).getD 0) (((storeG2 q)[0]?).getD 0) (((storeG2 q)[3]?).getD 0)
        (((storeG2 q)[2]?).getD 0) = .ok q

/-! ### Pairing commands -/

/-- LINE_DBL and LINE_ADD write at D the twelve words of the line value as R262 lists them for each branch of R263, 1_12
where P = O, and the new T over the old one (R269 to R271); and these words are those of the line values that the Miller
loop multiplies in. -/
def Obligations.LineCommandsWriteLineAndPoint : Prop :=
  (∀ (s : State) (d a b : Idx) (T : G2) (P : G1), (Instr.lineDbl d a b).wellFormed s.maxPairs = true →
      loadG2 (s.operand a) = some T → loadG1 (s.operand b) = some P → isValidG2 T = true → isValidG1 P = true →
      Completes (.lineDbl d a b) s fun t =>
        HoldsAt t d (dblLineWords T P) ∧
          HoldsAt t a (storeG2 (lineDbl T P).2) ∧ t.acc = s.acc ∧ Ran s t [(d.toNat, 12), (a.toNat, 4)] false) ∧
    (∀ (s : State) (d a b : Idx) (T Q : G2) (P : G1), (Instr.lineAdd d a b).wellFormed s.maxPairs = true →
      loadG2 (s.operand a) = some T → loadG2 (fun k => s.operand a (k + 4)) = some Q →
      loadG1 (s.operand b) = some P → isValidG2 T = true → isValidG2 Q = true → isValidG1 P = true →
      Completes (.lineAdd d a b) s fun t =>
        HoldsAt t d (addLineWords T Q P) ∧
          HoldsAt t a (storeG2 (lineAdd T Q P).2) ∧ t.acc = s.acc ∧ Ran s t [(d.toNat, 12), (a.toNat, 4)] false) ∧
    ∀ (T Q : G2) (P : G1), P ≠ .infinity →
      storeFp12 (lineDbl T P).1 = dblLineWords T P ∧ storeFp12 (lineAdd T Q P).1 = addLineWords T Q P

/-- The point of a doubling step is T + T, and the point of an addition step of points of E' is T + Q, by the group law
(R263), which is the chord-and-tangent law (R222). -/
def Obligations.LineStepsFollowTheGroupLaw : Prop :=
  (∀ (T : G2) (P : G1), (lineDbl T P).2 = Point.add fp2Ops T T) ∧
    (∀ (T Q : G2) (P : G1), isValidG2 T = true → isValidG2 Q = true → (lineAdd T Q P).2 = Point.add fp2Ops T Q) ∧
    (∀ Q : G2, Point.add fp2Ops .infinity Q = Q) ∧ (∀ T : G2, Point.add fp2Ops T .infinity = T) ∧
    ∀ x1 y1 x2 y2 : Fp2, Point.add fp2Ops (.affine x1 y1) (.affine x2 y2) =
      if x1 = x2 ∧ y1 = y2.neg then .infinity
      else
        let lam := if x1 = x2 then tangentSlope x1 y1 else chordSlope x1 y1 x2 y2
        let x3 := ((lam.mul lam).sub x1).sub x2
        .affine x3 ((lam.mul (x1.sub x3)).sub y1)

/-- MILLER, PAIR and FINEXP write the Miller value, the pairing, and the power FE of a nonzero element (R272 to R274); and
the Miller value is 1_12 where a point is O, else that of the 64 passes of R264 and its two correction steps, with
`Q1 = (conj(x)·g12, conj(y)·g13)` and `Q2n = (x·g22, y)`. -/
def Obligations.PairingCommandsWriteTheirValue : Prop :=
  (∀ (s : State) (d a b : Idx) (P : G1) (Q : G2), InFile d 12 → PairAt s a b P Q → isValidG1 P = true →
      isValidG2 Q = true →
      (Completes (.miller d a b) s fun t =>
          HoldsAt t d (storeFp12 (miller P Q)) ∧ t.acc = s.acc ∧ Ran s t [(d.toNat, 12)] false) ∧
        Completes (.pair d a b) s fun t =>
          HoldsAt t d (storeFp12 (finalExp (miller P Q))) ∧ t.acc = s.acc ∧ Ran s t [(d.toNat, 12)] false) ∧
    (∀ (s : State) (d a : Idx) (f : Fp12), InFile d 12 → InFile a 12 → loadFp12 (s.operand a) = some f →
      f ≠ Fp12.zero →
      Completes (.finexp d a) s fun t =>
        HoldsAt t d (storeFp12 (finalExp f)) ∧ t.acc = s.acc ∧ Ran s t [(d.toNat, 12)] false) ∧
    (∀ Q : G2, miller .infinity Q = Fp12.one) ∧ (∀ P : G1, miller P .infinity = Fp12.one) ∧
    ∀ (P : G1) (x y : Fp2) (f : Nat → Fp12) (T : Nat → G2), P ≠ .infinity → MillerPasses P (.affine x y) f T →
      let c1 := lineAdd (T 64) (.affine (Fp2.mul ⟨x.c0, -x.c1⟩ frobG12) (Fp2.mul ⟨y.c0, -y.c1⟩ frobG13)) P
      let c2 := lineAdd c1.2 (.affine (x.mul frobG22) y) P
      miller P (.affine x y) = ((f 64).mul c1.1).mul c2.1

/-- FINEXP is the power `(p^12 - 1)/n`: as many multiplications by `f`, from 1_12 (R266). -/
def Obligations.FinalExpIsThePower : Prop :=
  ∀ f : Fp12, finalExp f = (fun r : Fp12 => r.mul f)^[finalExponent] Fp12.one

/-- FINEXP of a product is the product of the FINEXPs, so the two accumulation strategies agree (R301). -/
def Obligations.FinalExpIsMultiplicative : Prop :=
  ∀ f g : Fp12, finalExp (f.mul g) = (finalExp f).mul (finalExp g)

/-- The pairing with a point at infinity is 1_12, so it leaves any product as it was (R275, R303). -/
def Obligations.PairingWithInfinityIsOne : Prop :=
  (∀ Q : G2, pairing .infinity Q = Fp12.one) ∧ (∀ P : G1, pairing P .infinity = Fp12.one) ∧
    ∀ (l l' : List (G1 × G2)) (P : G1) (Q : G2), P = .infinity ∨ Q = .infinity →
      pairingProduct (l ++ (P, Q) :: l') = pairingProduct (l ++ l')

/-! ### Control and aggregator commands -/

/-- NOP changes the report alone, and LDIB loads the 32 bytes of limb K, the first byte most significant (R340, R341). -/
def Obligations.NopAndLdibComplete : Prop :=
  (∀ s : State, Completes .nop s fun t => t.acc = s.acc ∧ Ran s t [] false) ∧
    ∀ (s : State) (d : Idx) (k : BitVec 16), 32 * k.toNat + 32 ≤ s.ibufBytes →
      Completes (.ldib d k) s fun t =>
        (∀ j < 32, (t.word d.toNat).extractLsb' (8 * (31 - j)) 8 = s.ibByte (32 * k.toNat + j)) ∧
          t.acc = s.acc ∧ Ran s t [(d.toNat, 1)] false

/-- ACC_INIT sets ACC to 1_12, ACC_PAIR multiplies the pairing of its points into it, ACC_CHECK compares it with 1_12,
and ACC_STORE copies it (R302 to R305). -/
def Obligations.AccumulatorCommandsComplete : Prop :=
  (∀ s : State, Completes .accInit s fun t => t.acc = Fp12.one ∧ Ran s t [] false) ∧
    (∀ (s : State) (a b : Idx) (P : G1) (Q : G2), PairAt s a b P Q → isValidG1 P = true → isValidG2 Q = true →
      Completes (.accPair a b) s fun t => t.acc = s.acc.mul (finalExp (miller P Q)) ∧ Ran s t [] false) ∧
    (∀ s : State, Completes .accCheck s fun t =>
      (t.result = true ↔ s.acc = Fp12.one) ∧ t.acc = s.acc ∧ Ran s t [] t.result) ∧
    ∀ (s : State) (d : Idx), InFile d 12 →
      Completes (.accStore d) s fun t =>
        HoldsAt t d (storeFp12 s.acc) ∧ t.acc = s.acc ∧ Ran s t [(d.toNat, 12)] false

/-- EVALUATE on an input whose every element decodes: RESULT tells whether the product of the pairings, multiplied up in
input order from 1_12, is 1_12, ACC holds the product, and S is untouched (R300, R310, R311). -/
def Obligations.EvaluateChecksTheProduct : Prop :=
  ∀ (s : State) (pairs : List (G1 × G2)), s.len.toNat = 192 * pairs.length → s.len.toNat ≤ s.ibufBytes →
    (∀ i (h : i < pairs.length), elementG1 s i = .ok pairs[i].1 ∧ elementG2 s i = .ok pairs[i].2) →
    Completes .evaluate s fun t =>
      t.acc = pairingProduct pairs ∧ (t.result = true ↔ pairingProduct pairs = Fp12.one) ∧ Ran s t [] t.result ∧
        pairingProduct pairs = pairs.foldl (fun r pq => r.mul (finalExp (miller pq.1 pq.2))) Fp12.one

/-- EVALUATE's length checks: a length that is no multiple of 192, the empty input, and an input beyond IBUF, none of
which reads IB (R310). -/
def Obligations.EvaluateChecksTheLength : Prop :=
  ∀ s : State,
    (s.len.toNat % 192 ≠ 0 → Completes .evaluate s fun t => Faulted s t .invalidInputLength 0) ∧
      (s.len.toNat = 0 → Completes .evaluate s fun t => t.acc = Fp12.one ∧ Ran s t [] true) ∧
      (s.len.toNat % 192 = 0 → s.ibufBytes < s.len.toNat →
        Completes .evaluate s fun t => Faulted s t .capacityExceeded 0)

/-- EVALUATE reports the first element that fails, its G1 part before its G2 part, with the element's index and the
part, and computes nothing (R310 to R312). -/
def Obligations.EvaluateReportsTheFirstError : Prop :=
  ∀ (s : State) (i : Nat), s.len.toNat % 192 = 0 → s.len.toNat ≤ s.ibufBytes → 192 * i < s.len.toNat →
    (∀ j < i, ∃ P Q, elementG1 s j = .ok P ∧ elementG2 s j = .ok Q) →
    (∀ e, elementG1 s i = .error e → Completes .evaluate s fun t => Faulted s t e (BitVec.ofNat 32 i)) ∧
      ∀ P e, elementG1 s i = .ok P → elementG2 s i = .error e →
        Completes .evaluate s fun t => Faulted s t e (BitVec.ofNat 32 i ||| 0x10000)

/-! ### The host's window -/

/-- A CMD write while BUSY = 0 accepts the command: LASTCMD, BUSY and a cleared report, and nothing else (R31, R96). -/
def Obligations.CmdWriteAcceptsTheCommand : Prop :=
  ∀ (s : State) (c : BusWord), s.busy = false →
    s.hostAccess (.write .word 0x00C c) =
      { s with
        lastCmd := c, busy := true, done := false, err := false, result := false, errCode := .none, errInfo := 0 }

/-- The error codes are numbered as the table of R401 lists them. -/
def Obligations.ErrorCodesAreNumberedAsListed : Prop :=
  [ErrCode.none, .invalidInputLength, .outOfRangeField, .pointNotOnCurve, .invalidSubgroup, .illegalOpcode, .badOperand,
      .nonCanonicalOperand, .inverseOfZero, .capacityExceeded, .invalidOperandPoint].map (fun e => e.toBits.toNat) =
    List.range 11

/-- The registers read as laid out: STATUS bit by bit, CTRL as IE in bit 3 and 0 elsewhere, the others whole, whether BUSY
is 0 or 1 (R27 to R34, R462). -/
def Obligations.RegistersReadAsLaidOut : Prop :=
  ∀ s : State,
    (∃ v, (s.hostAccess (.read .word 0x008)).readData = v ∧ v.getLsbD 0 = s.busy ∧ v.getLsbD 1 = s.done ∧
        v.getLsbD 2 = s.err ∧ v.getLsbD 3 = s.result ∧ v.getLsbD 4 = s.herr ∧ v.extractLsb' 5 3 = 0 ∧
        v.extractLsb' 8 4 = s.errCode.toBits ∧ v.extractLsb' 12 20 = 0) ∧
      (s.hostAccess (.read .word 0x000)).readData = s.id ∧
      (s.hostAccess (.read .word 0x004)).readData = (if s.ie then 8 else 0) ∧ (s.hostAccess (.read .word 0x00C)).readData = s.lastCmd ∧
      (s.hostAccess (.read .word 0x010)).readData = s.len ∧ (s.hostAccess (.read .word 0x014)).readData = s.errInfo ∧
      (s.hostAccess (.read .word 0x018)).readData = s.caps ∧
      ∀ v, s.busy = false → s.hostAccess (.write .word 0x010 v) = { s with len := v }

/-- The scratch window: bus word `j` of word `k` is its bits 255-32j : 224-32j, a write changes those bits alone
(R64). -/
def Obligations.ScratchWindowIsBigEndian : Prop :=
  ∀ (s : State) (k j : Nat) (v : BusWord), k < 256 → j < 8 → s.busy = false →
    (s.hostAccess (.read .word (BitVec.ofNat 16 (0x2000 + 32 * k + 4 * j)))).readData =
        (s.word k).extractLsb' (224 - 32 * j) 32 ∧
      ∃ t, s.hostAccess (.write .word (BitVec.ofNat 16 (0x2000 + 32 * k + 4 * j)) v) = t ∧
        t = { s with scratch := t.scratch } ∧ (t.word k).extractLsb' (224 - 32 * j) 32 = v ∧
        (∀ j' < 8, j' ≠ j → (t.word k).extractLsb' (224 - 32 * j') 32 = (s.word k).extractLsb' (224 - 32 * j') 32) ∧
        ∀ k', k' ≠ k → t.word k' = s.word k'

/-- The input window: four bytes to a bus word, the first in bits 31:24, a write changes those four bytes alone (R65).
The buffer is in canonical form, which every step keeps. -/
def Obligations.InputWindowIsBigEndian : Prop :=
  ∀ (s : State) (j : Nat) (v : BusWord), Memory.wf s.ibuf = true → s.ibufBytes ≤ 32768 → j % 4 = 0 →
    j < s.ibufBytes → s.busy = false →
    (s.hostAccess (.read .word (BitVec.ofNat 16 (0x8000 + j)))).readData =
        s.ibByte j ++ s.ibByte (j + 1) ++ s.ibByte (j + 2) ++ s.ibByte (j + 3) ∧
      ∃ t, s.hostAccess (.write .word (BitVec.ofNat 16 (0x8000 + j)) v) = t ∧ t = { s with ibuf := t.ibuf } ∧
        t.ibByte j ++ t.ibByte (j + 1) ++ t.ibByte (j + 2) ++ t.ibByte (j + 3) = v ∧
        ∀ i, i < j ∨ j + 4 ≤ i → t.ibByte i = s.ibByte i

/-- While BUSY = 1 a write to CMD, LEN, S or IBUF is dropped and sets HERR, and no access that leaves the command in
flight changes what the command reads (R66). -/
def Obligations.BusyWritesAreDropped : Prop :=
  (∀ (s : State) (off : BitVec 16) (v : BusWord), s.busy = true → off.toNat % 4 = 0 → BusyTarget s off.toNat →
      s.hostAccess (.write .word off v) = { s with herr := true }) ∧
    ∀ (s : State) (x : HostAccess), s.busy = true → (s.hostAccess x).busy = true →
      (∀ k, (s.hostAccess x).word k = s.word k) ∧ (∀ j, (s.hostAccess x).ibByte j = s.ibByte j) ∧
        (s.hostAccess x).len = s.len ∧ (s.hostAccess x).acc = s.acc ∧ (s.hostAccess x).lastCmd = s.lastCmd

/-- A reserved offset reads 0 and ignores a write, a read-only register ignores a write, and an access that is not an
aligned 4-byte access is dropped, reads 0 and sets HERR (R27, R63, R66, R67). Two readings of the rules are the model's:
that the part of the IBUF window above IBUF_BYTES is reserved while BUSY = 1 too (log entry 11, DEDUCED), and that a
dropped read sets HERR (log entry 18, DEDUCED). -/
def Obligations.ReservedAndMisalignedAccesses : Prop :=
  (∀ (s : State) (off : BitVec 16) (v : BusWord), off.toNat % 4 = 0 → ReservedOffset s off.toNat →
      s.hostAccess (.read .word off) = { s with readData := 0 } ∧ s.hostAccess (.write .word off v) = s) ∧
    (∀ (s : State) (off : BitVec 16) (v : BusWord),
      off = 0x000 ∨ off = 0x008 ∨ off = 0x014 ∨ off = 0x018 → s.hostAccess (.write .word off v) = s) ∧
    ∀ (s : State) (size : AccessSize) (off : BitVec 16) (v : BusWord), size ≠ .word ∨ off.toNat % 4 ≠ 0 →
      s.hostAccess (.read size off) = { s with herr := true, readData := 0 } ∧
        s.hostAccess (.write size off v) = { s with herr := true }

/-- An aligned read changes no state of the spec (R69). -/
def Obligations.ReadsHaveNoSideEffect : Prop :=
  ∀ (s : State) (off : BitVec 16), off.toNat % 4 = 0 →
    ∃ t, s.hostAccess (.read .word off) = t ∧ t = { s with readData := t.readData, draws := t.draws }

/-- The completion step and an idle step leave STATUS.HERR; an access of the host leaves it 1 exactly where the access is
one of the two causes of R404, or HERR was 1 and the access is no CTRL write with HERRCLR or SRST (R404, R29, R451). That
a dropped read is a cause, and a write to the reserved part of the IBUF window is none, are the readings of log entries
18 and 11. -/
def Obligations.HerrHasExactlyItsCauses : Prop :=
  ∀ s t : State, step s = .next t →
    (s.coreTurn = true ∨ s.pending = [] → t.herr = s.herr) ∧
      ∀ (h : HostTurn) (rest : List HostTurn), s.coreTurn = false → s.pending = h :: rest →
        (t.herr = true ↔ AccessError s h.access ∨ (s.herr = true ∧ ¬ClearsHerr h.access))
end

