-- ==== Sys2Proof/Laws/Decode.lean ====
section
/-! SUPPORT. The fields of a command word are the ones it was built from. -/

namespace Sys2Proof

@[simp] theorem opField_commandWord (op d a b : BitVec 8) : opField (commandWord op d a b) = op := by
  refine BitVec.eq_of_getLsbD_eq fun i hi => ?_
  simp only [opField, commandWord, BitVec.getLsbD_extractLsb', BitVec.getLsbD_append, hi]
  rw [if_neg (by omega), if_neg (by omega), if_neg (by omega)]
  simp only [decide_true, Bool.true_and]
  congr 1; omega

@[simp] theorem dField_commandWord (op d a b : BitVec 8) : dField (commandWord op d a b) = d := by
  refine BitVec.eq_of_getLsbD_eq fun i hi => ?_
  simp only [dField, commandWord, BitVec.getLsbD_extractLsb', BitVec.getLsbD_append, hi]
  rw [if_neg (by omega), if_neg (by omega), if_pos (by omega)]
  simp only [decide_true, Bool.true_and]
  congr 1; omega

@[simp] theorem aField_commandWord (op d a b : BitVec 8) : aField (commandWord op d a b) = a := by
  refine BitVec.eq_of_getLsbD_eq fun i hi => ?_
  simp only [aField, commandWord, BitVec.getLsbD_extractLsb', BitVec.getLsbD_append, hi]
  rw [if_neg (by omega), if_pos (by omega)]
  simp only [decide_true, Bool.true_and]
  congr 1; omega

@[simp] theorem bField_commandWord (op d a b : BitVec 8) : bField (commandWord op d a b) = b := by
  refine BitVec.eq_of_getLsbD_eq fun i hi => ?_
  simp only [bField, commandWord, BitVec.getLsbD_extractLsb', BitVec.getLsbD_append, hi]
  rw [if_pos (by omega)]
  simp

/-- Decoding a word built from fields depends on the fields alone. -/
theorem decode_commandWord (op d a b : BitVec 8) : decode (commandWord op d a b) = decodeFields op d a b := by
  simp [decode]

end Sys2Proof
end

