-- ==== Sys2Proof/Laws/State.lean ====
section
/-! SUPPORT. The small lemmas of the state's operations: one per operation and field, and what each write does to every
word, so that no later proof unfolds a record update. -/

namespace Sys2Proof.Machine.State

/-! ### One scratch word -/

@[simp] theorem scratch_setWord (s : State) (k : Nat) (v : Word) : (s.setWord k v).scratch = s.scratch.setIfInBounds k v := rfl
@[simp] theorem ibuf_setWord (s : State) (k : Nat) (v : Word) : (s.setWord k v).ibuf = s.ibuf := rfl
@[simp] theorem acc_setWord (s : State) (k : Nat) (v : Word) : (s.setWord k v).acc = s.acc := rfl
@[simp] theorem id_setWord (s : State) (k : Nat) (v : Word) : (s.setWord k v).id = s.id := rfl
@[simp] theorem caps_setWord (s : State) (k : Nat) (v : Word) : (s.setWord k v).caps = s.caps := rfl
@[simp] theorem ie_setWord (s : State) (k : Nat) (v : Word) : (s.setWord k v).ie = s.ie := rfl
@[simp] theorem busy_setWord (s : State) (k : Nat) (v : Word) : (s.setWord k v).busy = s.busy := rfl
@[simp] theorem done_setWord (s : State) (k : Nat) (v : Word) : (s.setWord k v).done = s.done := rfl
@[simp] theorem err_setWord (s : State) (k : Nat) (v : Word) : (s.setWord k v).err = s.err := rfl
@[simp] theorem result_setWord (s : State) (k : Nat) (v : Word) : (s.setWord k v).result = s.result := rfl
@[simp] theorem herr_setWord (s : State) (k : Nat) (v : Word) : (s.setWord k v).herr = s.herr := rfl
@[simp] theorem errCode_setWord (s : State) (k : Nat) (v : Word) : (s.setWord k v).errCode = s.errCode := rfl
@[simp] theorem lastCmd_setWord (s : State) (k : Nat) (v : Word) : (s.setWord k v).lastCmd = s.lastCmd := rfl
@[simp] theorem len_setWord (s : State) (k : Nat) (v : Word) : (s.setWord k v).len = s.len := rfl
@[simp] theorem errInfo_setWord (s : State) (k : Nat) (v : Word) : (s.setWord k v).errInfo = s.errInfo := rfl
@[simp] theorem pending_setWord (s : State) (k : Nat) (v : Word) : (s.setWord k v).pending = s.pending := rfl
@[simp] theorem readData_setWord (s : State) (k : Nat) (v : Word) : (s.setWord k v).readData = s.readData := rfl
@[simp] theorem draws_setWord (s : State) (k : Nat) (v : Word) : (s.setWord k v).draws = s.draws := rfl

/-- Writing a word changes that word, if it exists, and no other. -/
theorem word_setWord (s : State) (k j : Nat) (v : Word) :
    (s.setWord k v).word j = if k = j ∧ j < scratchWords then v else s.word j := by
  simp only [word, setWord, Vector.getElem?_setIfInBounds]
  by_cases h : k = j
  · subst h
    by_cases hk : k < scratchWords
    · simp [hk]
    · simp [hk]
  · simp [h]

theorem word_setWord_self (s : State) {k : Nat} (h : k < scratchWords) (v : Word) : (s.setWord k v).word k = v := by
  simp [word_setWord, h]

theorem word_setWord_of_ne (s : State) {k j : Nat} (h : k ≠ j) (v : Word) : (s.setWord k v).word j = s.word j := by
  simp [word_setWord, h]

/-! ### Several scratch words -/

/-- Writing a list of words changes only the scratch file. -/
theorem setWords_eq (s : State) (k : Nat) (ws : List Word) :
    s.setWords k ws = { s with scratch := (s.setWords k ws).scratch } := by
  induction ws generalizing s k with
  | nil => rfl
  | cons w ws ih => rw [setWords, ih]; rfl

@[simp] theorem ibuf_setWords (s : State) (k : Nat) (ws : List Word) : (s.setWords k ws).ibuf = s.ibuf := by
  rw [setWords_eq]
@[simp] theorem acc_setWords (s : State) (k : Nat) (ws : List Word) : (s.setWords k ws).acc = s.acc := by
  rw [setWords_eq]
@[simp] theorem id_setWords (s : State) (k : Nat) (ws : List Word) : (s.setWords k ws).id = s.id := by
  rw [setWords_eq]
@[simp] theorem caps_setWords (s : State) (k : Nat) (ws : List Word) : (s.setWords k ws).caps = s.caps := by
  rw [setWords_eq]
@[simp] theorem ie_setWords (s : State) (k : Nat) (ws : List Word) : (s.setWords k ws).ie = s.ie := by
  rw [setWords_eq]
@[simp] theorem busy_setWords (s : State) (k : Nat) (ws : List Word) : (s.setWords k ws).busy = s.busy := by
  rw [setWords_eq]
@[simp] theorem done_setWords (s : State) (k : Nat) (ws : List Word) : (s.setWords k ws).done = s.done := by
  rw [setWords_eq]
@[simp] theorem err_setWords (s : State) (k : Nat) (ws : List Word) : (s.setWords k ws).err = s.err := by
  rw [setWords_eq]
@[simp] theorem result_setWords (s : State) (k : Nat) (ws : List Word) : (s.setWords k ws).result = s.result := by
  rw [setWords_eq]
@[simp] theorem herr_setWords (s : State) (k : Nat) (ws : List Word) : (s.setWords k ws).herr = s.herr := by
  rw [setWords_eq]
@[simp] theorem errCode_setWords (s : State) (k : Nat) (ws : List Word) : (s.setWords k ws).errCode = s.errCode := by
  rw [setWords_eq]
@[simp] theorem lastCmd_setWords (s : State) (k : Nat) (ws : List Word) : (s.setWords k ws).lastCmd = s.lastCmd := by
  rw [setWords_eq]
@[simp] theorem len_setWords (s : State) (k : Nat) (ws : List Word) : (s.setWords k ws).len = s.len := by
  rw [setWords_eq]
@[simp] theorem errInfo_setWords (s : State) (k : Nat) (ws : List Word) : (s.setWords k ws).errInfo = s.errInfo := by
  rw [setWords_eq]
@[simp] theorem pending_setWords (s : State) (k : Nat) (ws : List Word) : (s.setWords k ws).pending = s.pending := by
  rw [setWords_eq]
@[simp] theorem readData_setWords (s : State) (k : Nat) (ws : List Word) : (s.setWords k ws).readData = s.readData := by
  rw [setWords_eq]
@[simp] theorem draws_setWords (s : State) (k : Nat) (ws : List Word) : (s.setWords k ws).draws = s.draws := by
  rw [setWords_eq]

/-- Writing a list of words inside the file: word `k + i` becomes the list's word `i`, every other word stays. -/
theorem word_setWords (s : State) (k : Nat) (ws : List Word) (h : k + ws.length ≤ scratchWords) (j : Nat) :
    (s.setWords k ws).word j = if k ≤ j ∧ j < k + ws.length then (ws[j - k]?).getD 0 else s.word j := by
  induction ws generalizing s k with
  | nil => simp [setWords, show ¬(k ≤ j ∧ j < k) by omega]
  | cons w ws ih =>
    simp only [List.length_cons] at h
    rw [setWords, ih _ _ (by omega), word_setWord]
    rcases Nat.lt_trichotomy j k with hj | rfl | hj
    · rw [if_neg (by omega), if_neg (by omega), if_neg (by simp; omega)]
    · rw [if_neg (by omega), if_pos ⟨rfl, by omega⟩, if_pos (by simp)]; simp
    · by_cases hj' : j < k + 1 + ws.length
      · rw [if_pos (by omega), if_pos (by simp; omega), show j - k = (j - (k + 1)) + 1 by omega]; simp
      · rw [if_neg (by omega), if_neg (by omega), if_neg (by simp; omega)]

/-- Words outside the written range stay, wherever the range ends. -/
theorem word_setWords_of_outside (s : State) (k : Nat) (ws : List Word) {j : Nat} (h : j < k ∨ k + ws.length ≤ j) :
    (s.setWords k ws).word j = s.word j := by
  induction ws generalizing s k with
  | nil => rfl
  | cons w ws ih =>
    simp only [List.length_cons] at h
    rw [setWords, ih _ _ (by omega), word_setWord_of_ne _ (by omega)]

/-! ### Destination writes -/

/-- The destination writes change only the scratch file. -/
theorem applyWrites_eq (s : State) (ws : List (Nat × List Word)) :
    s.applyWrites ws = { s with scratch := (s.applyWrites ws).scratch } := by
  induction ws generalizing s with
  | nil => rfl
  | cons w ws ih => rw [applyWrites, ih, setWords_eq]

@[simp] theorem ibuf_applyWrites (s : State) (ws : List (Nat × List Word)) : (s.applyWrites ws).ibuf = s.ibuf := by
  rw [applyWrites_eq]
@[simp] theorem acc_applyWrites (s : State) (ws : List (Nat × List Word)) : (s.applyWrites ws).acc = s.acc := by
  rw [applyWrites_eq]
@[simp] theorem id_applyWrites (s : State) (ws : List (Nat × List Word)) : (s.applyWrites ws).id = s.id := by
  rw [applyWrites_eq]
@[simp] theorem caps_applyWrites (s : State) (ws : List (Nat × List Word)) : (s.applyWrites ws).caps = s.caps := by
  rw [applyWrites_eq]
@[simp] theorem ie_applyWrites (s : State) (ws : List (Nat × List Word)) : (s.applyWrites ws).ie = s.ie := by
  rw [applyWrites_eq]
@[simp] theorem busy_applyWrites (s : State) (ws : List (Nat × List Word)) : (s.applyWrites ws).busy = s.busy := by
  rw [applyWrites_eq]
@[simp] theorem done_applyWrites (s : State) (ws : List (Nat × List Word)) : (s.applyWrites ws).done = s.done := by
  rw [applyWrites_eq]
@[simp] theorem err_applyWrites (s : State) (ws : List (Nat × List Word)) : (s.applyWrites ws).err = s.err := by
  rw [applyWrites_eq]
@[simp] theorem result_applyWrites (s : State) (ws : List (Nat × List Word)) : (s.applyWrites ws).result = s.result := by
  rw [applyWrites_eq]
@[simp] theorem herr_applyWrites (s : State) (ws : List (Nat × List Word)) : (s.applyWrites ws).herr = s.herr := by
  rw [applyWrites_eq]
@[simp] theorem errCode_applyWrites (s : State) (ws : List (Nat × List Word)) : (s.applyWrites ws).errCode = s.errCode := by
  rw [applyWrites_eq]
@[simp] theorem lastCmd_applyWrites (s : State) (ws : List (Nat × List Word)) : (s.applyWrites ws).lastCmd = s.lastCmd := by
  rw [applyWrites_eq]
@[simp] theorem len_applyWrites (s : State) (ws : List (Nat × List Word)) : (s.applyWrites ws).len = s.len := by
  rw [applyWrites_eq]
@[simp] theorem errInfo_applyWrites (s : State) (ws : List (Nat × List Word)) : (s.applyWrites ws).errInfo = s.errInfo := by
  rw [applyWrites_eq]
@[simp] theorem pending_applyWrites (s : State) (ws : List (Nat × List Word)) : (s.applyWrites ws).pending = s.pending := by
  rw [applyWrites_eq]
@[simp] theorem readData_applyWrites (s : State) (ws : List (Nat × List Word)) : (s.applyWrites ws).readData = s.readData := by
  rw [applyWrites_eq]
@[simp] theorem draws_applyWrites (s : State) (ws : List (Nat × List Word)) : (s.applyWrites ws).draws = s.draws := by
  rw [applyWrites_eq]

/-- Words outside every destination range stay. -/
theorem word_applyWrites_of_outside (s : State) (ws : List (Nat × List Word)) {j : Nat}
    (h : ∀ w ∈ ws, j < w.1 ∨ w.1 + w.2.length ≤ j) : (s.applyWrites ws).word j = s.word j := by
  induction ws generalizing s with
  | nil => rfl
  | cons w ws ih =>
    rw [applyWrites, ih _ fun w' hw' => h w' (by simp [hw']), word_setWords_of_outside _ _ _ (h w (by simp))]

/-! ### Accept, completion, fault -/

@[simp] theorem scratch_accept (s : State) (c : BusWord) : (s.accept c).scratch = s.scratch := rfl
@[simp] theorem ibuf_accept (s : State) (c : BusWord) : (s.accept c).ibuf = s.ibuf := rfl
@[simp] theorem acc_accept (s : State) (c : BusWord) : (s.accept c).acc = s.acc := rfl
@[simp] theorem id_accept (s : State) (c : BusWord) : (s.accept c).id = s.id := rfl
@[simp] theorem caps_accept (s : State) (c : BusWord) : (s.accept c).caps = s.caps := rfl
@[simp] theorem ie_accept (s : State) (c : BusWord) : (s.accept c).ie = s.ie := rfl
@[simp] theorem busy_accept (s : State) (c : BusWord) : (s.accept c).busy = true := rfl
@[simp] theorem done_accept (s : State) (c : BusWord) : (s.accept c).done = false := rfl
@[simp] theorem err_accept (s : State) (c : BusWord) : (s.accept c).err = false := rfl
@[simp] theorem result_accept (s : State) (c : BusWord) : (s.accept c).result = false := rfl
@[simp] theorem herr_accept (s : State) (c : BusWord) : (s.accept c).herr = s.herr := rfl
@[simp] theorem errCode_accept (s : State) (c : BusWord) : (s.accept c).errCode = .none := rfl
@[simp] theorem lastCmd_accept (s : State) (c : BusWord) : (s.accept c).lastCmd = c := rfl
@[simp] theorem len_accept (s : State) (c : BusWord) : (s.accept c).len = s.len := rfl
@[simp] theorem errInfo_accept (s : State) (c : BusWord) : (s.accept c).errInfo = 0 := rfl
@[simp] theorem pending_accept (s : State) (c : BusWord) : (s.accept c).pending = s.pending := rfl
@[simp] theorem readData_accept (s : State) (c : BusWord) : (s.accept c).readData = s.readData := rfl
@[simp] theorem draws_accept (s : State) (c : BusWord) : (s.accept c).draws = s.draws := rfl

@[simp] theorem scratch_complete (s : State) (e : Effect) : (s.complete e).scratch = (s.applyWrites e.writes).scratch := rfl
@[simp] theorem acc_complete (s : State) (e : Effect) : (s.complete e).acc = e.acc.getD s.acc := rfl
@[simp] theorem busy_complete (s : State) (e : Effect) : (s.complete e).busy = false := rfl
@[simp] theorem done_complete (s : State) (e : Effect) : (s.complete e).done = true := rfl
@[simp] theorem err_complete (s : State) (e : Effect) : (s.complete e).err = false := rfl
@[simp] theorem result_complete (s : State) (e : Effect) : (s.complete e).result = e.result := rfl
@[simp] theorem errCode_complete (s : State) (e : Effect) : (s.complete e).errCode = .none := rfl
@[simp] theorem errInfo_complete (s : State) (e : Effect) : (s.complete e).errInfo = 0 := rfl

@[simp] theorem ibuf_complete (s : State) (e : Effect) : (s.complete e).ibuf = s.ibuf := by
  show (s.applyWrites e.writes).ibuf = s.ibuf; simp
@[simp] theorem id_complete (s : State) (e : Effect) : (s.complete e).id = s.id := by
  show (s.applyWrites e.writes).id = s.id; simp
@[simp] theorem caps_complete (s : State) (e : Effect) : (s.complete e).caps = s.caps := by
  show (s.applyWrites e.writes).caps = s.caps; simp
@[simp] theorem ie_complete (s : State) (e : Effect) : (s.complete e).ie = s.ie := by
  show (s.applyWrites e.writes).ie = s.ie; simp
@[simp] theorem herr_complete (s : State) (e : Effect) : (s.complete e).herr = s.herr := by
  show (s.applyWrites e.writes).herr = s.herr; simp
@[simp] theorem lastCmd_complete (s : State) (e : Effect) : (s.complete e).lastCmd = s.lastCmd := by
  show (s.applyWrites e.writes).lastCmd = s.lastCmd; simp
@[simp] theorem len_complete (s : State) (e : Effect) : (s.complete e).len = s.len := by
  show (s.applyWrites e.writes).len = s.len; simp
@[simp] theorem pending_complete (s : State) (e : Effect) : (s.complete e).pending = s.pending := by
  show (s.applyWrites e.writes).pending = s.pending; simp
@[simp] theorem readData_complete (s : State) (e : Effect) : (s.complete e).readData = s.readData := by
  show (s.applyWrites e.writes).readData = s.readData; simp
@[simp] theorem draws_complete (s : State) (e : Effect) : (s.complete e).draws = s.draws := by
  show (s.applyWrites e.writes).draws = s.draws; simp

@[simp] theorem word_complete (s : State) (e : Effect) (k : Nat) : (s.complete e).word k = (s.applyWrites e.writes).word k := rfl

@[simp] theorem scratch_raise (s : State) (r : Raise) : (s.raise r).scratch = s.scratch := rfl
@[simp] theorem ibuf_raise (s : State) (r : Raise) : (s.raise r).ibuf = s.ibuf := rfl
@[simp] theorem acc_raise (s : State) (r : Raise) : (s.raise r).acc = s.acc := rfl
@[simp] theorem id_raise (s : State) (r : Raise) : (s.raise r).id = s.id := rfl
@[simp] theorem caps_raise (s : State) (r : Raise) : (s.raise r).caps = s.caps := rfl
@[simp] theorem ie_raise (s : State) (r : Raise) : (s.raise r).ie = s.ie := rfl
@[simp] theorem busy_raise (s : State) (r : Raise) : (s.raise r).busy = false := rfl
@[simp] theorem done_raise (s : State) (r : Raise) : (s.raise r).done = true := rfl
@[simp] theorem err_raise (s : State) (r : Raise) : (s.raise r).err = true := rfl
@[simp] theorem result_raise (s : State) (r : Raise) : (s.raise r).result = false := rfl
@[simp] theorem herr_raise (s : State) (r : Raise) : (s.raise r).herr = s.herr := rfl
@[simp] theorem errCode_raise (s : State) (r : Raise) : (s.raise r).errCode = r.code := rfl
@[simp] theorem lastCmd_raise (s : State) (r : Raise) : (s.raise r).lastCmd = s.lastCmd := rfl
@[simp] theorem len_raise (s : State) (r : Raise) : (s.raise r).len = s.len := rfl
@[simp] theorem errInfo_raise (s : State) (r : Raise) : (s.raise r).errInfo = r.info := rfl
@[simp] theorem pending_raise (s : State) (r : Raise) : (s.raise r).pending = s.pending := rfl
@[simp] theorem readData_raise (s : State) (r : Raise) : (s.raise r).readData = s.readData := rfl
@[simp] theorem draws_raise (s : State) (r : Raise) : (s.raise r).draws = s.draws := rfl

@[simp] theorem word_raise (s : State) (r : Raise) (k : Nat) : (s.raise r).word k = s.word k := rfl
@[simp] theorem word_accept (s : State) (c : BusWord) (k : Nat) : (s.accept c).word k = s.word k := rfl

/-! ### Soft reset -/

/-- Losing words changes the scratch file and the draw counter, nothing else. -/
theorem loseWords_eq (s : State) (ks : List Nat) :
    s.loseWords ks = { s with scratch := (s.loseWords ks).scratch, draws := (s.loseWords ks).draws } := by
  induction ks generalizing s with
  | nil => rfl
  | cons k ks ih => rw [loseWords, ih]; rfl

/-- A word that is not lost stays. -/
theorem word_loseWords_of_not_mem (s : State) (ks : List Nat) {j : Nat} (h : j ∉ ks) :
    (s.loseWords ks).word j = s.word j := by
  induction ks generalizing s with
  | nil => rfl
  | cons k ks ih =>
    simp only [List.mem_cons, not_or] at h
    rw [loseWords, ih _ h.2]
    exact word_setWord_of_ne s (Ne.symm h.1) _

@[simp] theorem acc_softReset (s : State) : s.softReset.acc = Fp12.one := rfl
@[simp] theorem ie_softReset (s : State) : s.softReset.ie = false := rfl
@[simp] theorem busy_softReset (s : State) : s.softReset.busy = false := rfl
@[simp] theorem done_softReset (s : State) : s.softReset.done = false := rfl
@[simp] theorem err_softReset (s : State) : s.softReset.err = false := rfl
@[simp] theorem result_softReset (s : State) : s.softReset.result = false := rfl
@[simp] theorem herr_softReset (s : State) : s.softReset.herr = false := rfl
@[simp] theorem errCode_softReset (s : State) : s.softReset.errCode = .none := rfl
@[simp] theorem lastCmd_softReset (s : State) : s.softReset.lastCmd = 0 := rfl
@[simp] theorem len_softReset (s : State) : s.softReset.len = 0 := rfl
@[simp] theorem errInfo_softReset (s : State) : s.softReset.errInfo = 0 := rfl
@[simp] theorem ibuf_softReset (s : State) : s.softReset.ibuf = s.ibuf := by
  simp only [softReset]; split
  · rw [loseWords_eq]
  · rfl
@[simp] theorem id_softReset (s : State) : s.softReset.id = s.id := by
  simp only [softReset]; split
  · rw [loseWords_eq]
  · rfl
@[simp] theorem caps_softReset (s : State) : s.softReset.caps = s.caps := by
  simp only [softReset]; split
  · rw [loseWords_eq]
  · rfl
@[simp] theorem pending_softReset (s : State) : s.softReset.pending = s.pending := by
  simp only [softReset]; split
  · rw [loseWords_eq]
  · rfl
@[simp] theorem readData_softReset (s : State) : s.softReset.readData = s.readData := by
  simp only [softReset]; split
  · rw [loseWords_eq]
  · rfl

/-- The scratch words after a soft reset: only destination words of an aborted command can differ (R451). -/
theorem word_softReset (s : State) {k : Nat} (h : s.busy = false ∨ k ∉ destWords s.lastCmd) :
    s.softReset.word k = s.word k := by
  rcases h with h | h
  · simp [softReset, word, h]
  · by_cases hb : s.busy = true
    · have := word_loseWords_of_not_mem s _ h
      simpa [softReset, word, hb] using this
    · simp [softReset, word, hb]

/-! ### The host's accesses -/

@[simp] theorem scratch_answer (s : State) (v : BusWord) : (s.answer v).scratch = s.scratch := rfl
@[simp] theorem ibuf_answer (s : State) (v : BusWord) : (s.answer v).ibuf = s.ibuf := rfl
@[simp] theorem acc_answer (s : State) (v : BusWord) : (s.answer v).acc = s.acc := rfl
@[simp] theorem id_answer (s : State) (v : BusWord) : (s.answer v).id = s.id := rfl
@[simp] theorem caps_answer (s : State) (v : BusWord) : (s.answer v).caps = s.caps := rfl
@[simp] theorem ie_answer (s : State) (v : BusWord) : (s.answer v).ie = s.ie := rfl
@[simp] theorem busy_answer (s : State) (v : BusWord) : (s.answer v).busy = s.busy := rfl
@[simp] theorem done_answer (s : State) (v : BusWord) : (s.answer v).done = s.done := rfl
@[simp] theorem err_answer (s : State) (v : BusWord) : (s.answer v).err = s.err := rfl
@[simp] theorem result_answer (s : State) (v : BusWord) : (s.answer v).result = s.result := rfl
@[simp] theorem herr_answer (s : State) (v : BusWord) : (s.answer v).herr = s.herr := rfl
@[simp] theorem errCode_answer (s : State) (v : BusWord) : (s.answer v).errCode = s.errCode := rfl
@[simp] theorem lastCmd_answer (s : State) (v : BusWord) : (s.answer v).lastCmd = s.lastCmd := rfl
@[simp] theorem len_answer (s : State) (v : BusWord) : (s.answer v).len = s.len := rfl
@[simp] theorem errInfo_answer (s : State) (v : BusWord) : (s.answer v).errInfo = s.errInfo := rfl
@[simp] theorem pending_answer (s : State) (v : BusWord) : (s.answer v).pending = s.pending := rfl
@[simp] theorem readData_answer (s : State) (v : BusWord) : (s.answer v).readData = v := rfl
@[simp] theorem draws_answer (s : State) (v : BusWord) : (s.answer v).draws = s.draws := rfl

@[simp] theorem scratch_drop (s : State) : s.drop.scratch = s.scratch := rfl
@[simp] theorem ibuf_drop (s : State) : s.drop.ibuf = s.ibuf := rfl
@[simp] theorem acc_drop (s : State) : s.drop.acc = s.acc := rfl
@[simp] theorem id_drop (s : State) : s.drop.id = s.id := rfl
@[simp] theorem caps_drop (s : State) : s.drop.caps = s.caps := rfl
@[simp] theorem ie_drop (s : State) : s.drop.ie = s.ie := rfl
@[simp] theorem busy_drop (s : State) : s.drop.busy = s.busy := rfl
@[simp] theorem done_drop (s : State) : s.drop.done = s.done := rfl
@[simp] theorem err_drop (s : State) : s.drop.err = s.err := rfl
@[simp] theorem result_drop (s : State) : s.drop.result = s.result := rfl
@[simp] theorem herr_drop (s : State) : s.drop.herr = true := rfl
@[simp] theorem errCode_drop (s : State) : s.drop.errCode = s.errCode := rfl
@[simp] theorem lastCmd_drop (s : State) : s.drop.lastCmd = s.lastCmd := rfl
@[simp] theorem len_drop (s : State) : s.drop.len = s.len := rfl
@[simp] theorem errInfo_drop (s : State) : s.drop.errInfo = s.errInfo := rfl
@[simp] theorem pending_drop (s : State) : s.drop.pending = s.pending := rfl
@[simp] theorem readData_drop (s : State) : s.drop.readData = s.readData := rfl
@[simp] theorem draws_drop (s : State) : s.drop.draws = s.draws := rfl

@[simp] theorem scratch_answerFree (s : State) : s.answerFree.scratch = s.scratch := rfl
@[simp] theorem ibuf_answerFree (s : State) : s.answerFree.ibuf = s.ibuf := rfl
@[simp] theorem acc_answerFree (s : State) : s.answerFree.acc = s.acc := rfl
@[simp] theorem id_answerFree (s : State) : s.answerFree.id = s.id := rfl
@[simp] theorem caps_answerFree (s : State) : s.answerFree.caps = s.caps := rfl
@[simp] theorem ie_answerFree (s : State) : s.answerFree.ie = s.ie := rfl
@[simp] theorem busy_answerFree (s : State) : s.answerFree.busy = s.busy := rfl
@[simp] theorem done_answerFree (s : State) : s.answerFree.done = s.done := rfl
@[simp] theorem err_answerFree (s : State) : s.answerFree.err = s.err := rfl
@[simp] theorem result_answerFree (s : State) : s.answerFree.result = s.result := rfl
@[simp] theorem herr_answerFree (s : State) : s.answerFree.herr = s.herr := rfl
@[simp] theorem errCode_answerFree (s : State) : s.answerFree.errCode = s.errCode := rfl
@[simp] theorem lastCmd_answerFree (s : State) : s.answerFree.lastCmd = s.lastCmd := rfl
@[simp] theorem len_answerFree (s : State) : s.answerFree.len = s.len := rfl
@[simp] theorem errInfo_answerFree (s : State) : s.answerFree.errInfo = s.errInfo := rfl
@[simp] theorem pending_answerFree (s : State) : s.answerFree.pending = s.pending := rfl
@[simp] theorem readData_answerFree (s : State) : s.answerFree.readData = Config.busyRead s.draws := rfl
@[simp] theorem draws_answerFree (s : State) : s.answerFree.draws = s.draws + 1 := rfl

@[simp] theorem scratch_setIbByte (s : State) (j : Nat) (v : Byte) : (s.setIbByte j v).scratch = s.scratch := rfl
@[simp] theorem ibuf_setIbByte (s : State) (j : Nat) (v : Byte) : (s.setIbByte j v).ibuf = Memory.write s.ibuf j v := rfl
@[simp] theorem acc_setIbByte (s : State) (j : Nat) (v : Byte) : (s.setIbByte j v).acc = s.acc := rfl
@[simp] theorem id_setIbByte (s : State) (j : Nat) (v : Byte) : (s.setIbByte j v).id = s.id := rfl
@[simp] theorem caps_setIbByte (s : State) (j : Nat) (v : Byte) : (s.setIbByte j v).caps = s.caps := rfl
@[simp] theorem ie_setIbByte (s : State) (j : Nat) (v : Byte) : (s.setIbByte j v).ie = s.ie := rfl
@[simp] theorem busy_setIbByte (s : State) (j : Nat) (v : Byte) : (s.setIbByte j v).busy = s.busy := rfl
@[simp] theorem done_setIbByte (s : State) (j : Nat) (v : Byte) : (s.setIbByte j v).done = s.done := rfl
@[simp] theorem err_setIbByte (s : State) (j : Nat) (v : Byte) : (s.setIbByte j v).err = s.err := rfl
@[simp] theorem result_setIbByte (s : State) (j : Nat) (v : Byte) : (s.setIbByte j v).result = s.result := rfl
@[simp] theorem herr_setIbByte (s : State) (j : Nat) (v : Byte) : (s.setIbByte j v).herr = s.herr := rfl
@[simp] theorem errCode_setIbByte (s : State) (j : Nat) (v : Byte) : (s.setIbByte j v).errCode = s.errCode := rfl
@[simp] theorem lastCmd_setIbByte (s : State) (j : Nat) (v : Byte) : (s.setIbByte j v).lastCmd = s.lastCmd := rfl
@[simp] theorem len_setIbByte (s : State) (j : Nat) (v : Byte) : (s.setIbByte j v).len = s.len := rfl
@[simp] theorem errInfo_setIbByte (s : State) (j : Nat) (v : Byte) : (s.setIbByte j v).errInfo = s.errInfo := rfl
@[simp] theorem pending_setIbByte (s : State) (j : Nat) (v : Byte) : (s.setIbByte j v).pending = s.pending := rfl
@[simp] theorem readData_setIbByte (s : State) (j : Nat) (v : Byte) : (s.setIbByte j v).readData = s.readData := rfl
@[simp] theorem draws_setIbByte (s : State) (j : Nat) (v : Byte) : (s.setIbByte j v).draws = s.draws := rfl

@[simp] theorem scratch_holdHost (s : State) : s.holdHost.scratch = s.scratch := rfl
@[simp] theorem ibuf_holdHost (s : State) : s.holdHost.ibuf = s.ibuf := rfl
@[simp] theorem acc_holdHost (s : State) : s.holdHost.acc = s.acc := rfl
@[simp] theorem id_holdHost (s : State) : s.holdHost.id = s.id := rfl
@[simp] theorem caps_holdHost (s : State) : s.holdHost.caps = s.caps := rfl
@[simp] theorem ie_holdHost (s : State) : s.holdHost.ie = s.ie := rfl
@[simp] theorem busy_holdHost (s : State) : s.holdHost.busy = s.busy := rfl
@[simp] theorem done_holdHost (s : State) : s.holdHost.done = s.done := rfl
@[simp] theorem err_holdHost (s : State) : s.holdHost.err = s.err := rfl
@[simp] theorem result_holdHost (s : State) : s.holdHost.result = s.result := rfl
@[simp] theorem herr_holdHost (s : State) : s.holdHost.herr = s.herr := rfl
@[simp] theorem errCode_holdHost (s : State) : s.holdHost.errCode = s.errCode := rfl
@[simp] theorem lastCmd_holdHost (s : State) : s.holdHost.lastCmd = s.lastCmd := rfl
@[simp] theorem len_holdHost (s : State) : s.holdHost.len = s.len := rfl
@[simp] theorem errInfo_holdHost (s : State) : s.holdHost.errInfo = s.errInfo := rfl
@[simp] theorem readData_holdHost (s : State) : s.holdHost.readData = s.readData := rfl
@[simp] theorem draws_holdHost (s : State) : s.holdHost.draws = s.draws := rfl

end Sys2Proof.Machine.State
end

