-- ==== Sys2Proof/Laws/Operands.lean ====
section
/-! SUPPORT. The laws of operands: words and elements, loading and storing, and for each check and command shape one
lemma that says everything it can do. -/

namespace Sys2Proof.Machine

/-! ### Words and elements of Fp -/

theorem p_lt_word : p < 2 ^ 256 := by decide

@[simp] theorem Fp.toNat_toWord (a : Fp) : a.toWord.toNat = a.val := by
  have := a.isLt
  have := p_lt_word
  simp only [Fp.toWord, BitVec.toNat_ofNat]
  exact Nat.mod_eq_of_lt (by omega)

theorem Fp.ofWord?_eq_some {w : Word} {a : Fp} : Fp.ofWord? w = some a ↔ w.toNat = a.val := by
  have := a.isLt
  simp only [Fp.ofWord?]
  split
  · simp [Fin.ext_iff]
  · simp; omega

theorem Fp.ofWord?_eq_none {w : Word} : Fp.ofWord? w = none ↔ p ≤ w.toNat := by
  simp only [Fp.ofWord?]
  split <;> simp <;> omega

@[simp] theorem Fp.ofWord?_toWord (a : Fp) : Fp.ofWord? a.toWord = some a := Fp.ofWord?_eq_some.mpr (by simp)

/-! ### Loading: which words an element lies in -/

theorem loadFp_eq_some {r : Nat → Word} {a : Fp} : loadFp r = some a ↔ (r 0).toNat = a.val := Fp.ofWord?_eq_some

theorem loadFp2_eq_some {r : Nat → Word} {a : Fp2} :
    loadFp2 r = some a ↔ (r 0).toNat = a.c0.val ∧ (r 1).toNat = a.c1.val := by
  obtain ⟨c0, c1⟩ := a
  have h0 : loadFp r = some c0 ↔ (r 0).toNat = c0.val := loadFp_eq_some
  have h1 : loadFp (fun k => r (k + 1)) = some c1 ↔ (r 1).toNat = c1.val := loadFp_eq_some
  rw [← h0, ← h1]; clear h0 h1
  simp only [loadFp2]
  split <;> simp_all

theorem loadFp6_eq_some {r : Nat → Word} {a : Fp6} : loadFp6 r = some a ↔
    loadFp2 r = some a.a0 ∧ loadFp2 (fun k => r (k + 2)) = some a.a1 ∧ loadFp2 (fun k => r (k + 4)) = some a.a2 := by
  obtain ⟨a0, a1, a2⟩ := a
  simp only [loadFp6]
  split <;> simp_all

theorem loadFp12_eq_some {r : Nat → Word} {a : Fp12} : loadFp12 r = some a ↔
    loadFp6 r = some a.g0 ∧ loadFp6 (fun k => r (k + 6)) = some a.g1 := by
  obtain ⟨g0, g1⟩ := a
  simp only [loadFp12]
  split <;> simp_all

/-! ### Storing -/

@[simp] theorem length_storeFp (a : Fp) : (storeFp a).length = 1 := rfl
@[simp] theorem length_storeFp2 (a : Fp2) : (storeFp2 a).length = 2 := rfl
@[simp] theorem length_storeFp6 (a : Fp6) : (storeFp6 a).length = 6 := rfl
@[simp] theorem length_storeFp12 (a : Fp12) : (storeFp12 a).length = 12 := rfl
@[simp] theorem length_storeG1 (q : G1) : (storeG1 q).length = 2 := by cases q <;> rfl
@[simp] theorem length_storeG2 (q : G2) : (storeG2 q).length = 4 := by cases q <;> rfl

/-! ### The checks -/

theorem fits_iff {x : Idx} {w : Nat} : fits x w = true ↔ x.toNat + w ≤ scratchWords := by simp [fits]

theorem lineDisjoint_iff {d a : Idx} :
    lineDisjoint d a = true ↔ a.toNat + 4 ≤ d.toNat ∨ d.toNat + 12 ≤ a.toNat := by
  simp only [lineDisjoint]
  by_cases h : d.toNat < a.toNat + 4 <;> by_cases h' : a.toNat < d.toNat + 12 <;> simp [h, h'] <;> omega

theorem checkRange_of_fits {x : Idx} {w : Nat} (h : fits x w = true) : checkRange x w = .ok () := by
  simp [checkRange, h]

theorem checkRange_of_not_fits {x : Idx} {w : Nat} (h : fits x w = false) :
    checkRange x w = .error ⟨.badOperand, 0⟩ := by
  simp [checkRange, h, Cmd.raise]

@[simp] theorem canonical_some {α : Type} (v : α) : canonical (some v) = .ok v := rfl
@[simp] theorem canonical_none {α : Type} : canonical (none : Option α) = .error ⟨.nonCanonicalOperand, 0⟩ := rfl
@[simp] theorem checkPoint_true : checkPoint true = .ok () := rfl
@[simp] theorem checkPoint_false : checkPoint false = .error ⟨.invalidOperandPoint, 0⟩ := rfl
@[simp] theorem decoded_ok {α : Type} (info : BusWord) (v : α) : decoded info (.ok v) = .ok v := rfl
@[simp] theorem decoded_error {α : Type} (info : BusWord) (e : ErrCode) :
    decoded info (.error e : Except ErrCode α) = .error ⟨e, info⟩ := rfl

/-! ### The command shapes: everything each can do -/

/-- `binaryCmd` completes exactly when the ranges fit and both operands are canonical, and it writes the value of `f`
at D; otherwise it raises BadOperand, if a range does not fit, or else NonCanonicalOperand. -/
theorem binaryCmd_eq {α : Type} (l : Layout α) (f : α → α → α) (d a b : Idx) (s : State) :
    binaryCmd l f d a b s =
      if fits d l.width && fits a l.width && fits b l.width then
        match l.load (s.operand a), l.load (s.operand b) with
        | some x, some y => .ok { writes := [(d.toNat, l.store (f x y))] }
        | _, _ => .error ⟨.nonCanonicalOperand, 0⟩
      else .error ⟨.badOperand, 0⟩ := by
  cases hd : fits d l.width <;> cases ha : fits a l.width <;> cases hb : fits b l.width <;>
    cases hx : l.load (s.operand a) <;> cases hy : l.load (s.operand b) <;>
    simp [binaryCmd, checkRange, hd, ha, hb, hx, hy, Cmd.raise, bind, Except.bind, pure, Except.pure]

/-- `unaryCmd` completes exactly when the ranges fit and the operand is canonical, and it writes the value of `f` at
D. -/
theorem unaryCmd_eq {α : Type} (l : Layout α) (f : α → α) (d a : Idx) (s : State) :
    unaryCmd l f d a s =
      if fits d l.width && fits a l.width then
        match l.load (s.operand a) with
        | some x => .ok { writes := [(d.toNat, l.store (f x))] }
        | none => .error ⟨.nonCanonicalOperand, 0⟩
      else .error ⟨.badOperand, 0⟩ := by
  cases hd : fits d l.width <;> cases ha : fits a l.width <;> cases hx : l.load (s.operand a) <;>
    simp [unaryCmd, checkRange, hd, ha, hx, Cmd.raise, bind, Except.bind, pure, Except.pure]

/-- `nonzeroCmd` is `unaryCmd` but for a zero operand, which raises InverseOfZero. -/
theorem nonzeroCmd_eq {α : Type} [DecidableEq α] (l : Layout α) (f : α → α) (d a : Idx) (s : State) :
    nonzeroCmd l f d a s =
      if fits d l.width && fits a l.width then
        match l.load (s.operand a) with
        | some x =>
          if x = l.zero then .error ⟨.inverseOfZero, 0⟩ else .ok { writes := [(d.toNat, l.store (f x))] }
        | none => .error ⟨.nonCanonicalOperand, 0⟩
      else .error ⟨.badOperand, 0⟩ := by
  cases hd : fits d l.width <;> cases ha : fits a l.width <;> cases hx : l.load (s.operand a) <;>
    simp [nonzeroCmd, checkRange, hd, ha, hx, Cmd.raise, bind, Except.bind, pure, Except.pure]

/-- `equalCmd` completes exactly when the ranges fit and both operands are canonical, and writes nothing but the
result. -/
theorem equalCmd_eq {α : Type} [DecidableEq α] (l : Layout α) (a b : Idx) (s : State) :
    equalCmd l a b s =
      if fits a l.width && fits b l.width then
        match l.load (s.operand a), l.load (s.operand b) with
        | some x, some y => .ok { result := decide (x = y) }
        | _, _ => .error ⟨.nonCanonicalOperand, 0⟩
      else .error ⟨.badOperand, 0⟩ := by
  cases ha : fits a l.width <;> cases hb : fits b l.width <;>
    cases hx : l.load (s.operand a) <;> cases hy : l.load (s.operand b) <;>
    simp [equalCmd, checkRange, ha, hb, hx, hy, Cmd.raise, bind, Except.bind, pure, Except.pure]

/-- `pairOperands` gives the two points exactly when their words are canonical and both are valid. -/
theorem pairOperands_eq (a b : Idx) (s : State) :
    pairOperands a b s =
      match loadG1 (s.operand a), loadG2 (s.operand b) with
      | some P, some Q =>
        if isValidG1 P && isValidG2 Q then .ok (P, Q) else .error ⟨.invalidOperandPoint, 0⟩
      | _, _ => .error ⟨.nonCanonicalOperand, 0⟩ := by
  rcases hx : loadG1 (s.operand a) with _ | P <;> rcases hy : loadG2 (s.operand b) with _ | Q <;>
    simp [pairOperands, hx, hy, bind, Except.bind, pure, Except.pure]
  cases hP : isValidG1 P <;> cases hQ : isValidG2 Q <;> simp

/-- `pairCmd` completes exactly when the ranges fit and the points are canonical and valid. -/
theorem pairCmd_eq (f : G1 → G2 → Fp12) (d a b : Idx) (s : State) :
    pairCmd f d a b s =
      if fits d 12 && fits a 2 && fits b 4 then
        match pairOperands a b s with
        | .ok pq => .ok { writes := [(d.toNat, storeFp12 (f pq.1 pq.2))] }
        | .error r => .error r
      else .error ⟨.badOperand, 0⟩ := by
  cases hd : fits d 12 <;> cases ha : fits a 2 <;> cases hb : fits b 4 <;> cases hp : pairOperands a b s <;>
    simp [pairCmd, checkRange, hd, ha, hb, hp, Cmd.raise, bind, Except.bind, pure, Except.pure]

/-- `accPairCmd` completes exactly when the ranges fit and the points are canonical and valid, and writes only ACC. -/
theorem accPairCmd_eq (a b : Idx) (s : State) :
    accPairCmd a b s =
      if fits a 2 && fits b 4 then
        match pairOperands a b s with
        | .ok pq => .ok { acc := some (s.acc.mul (pairing pq.1 pq.2)) }
        | .error r => .error r
      else .error ⟨.badOperand, 0⟩ := by
  cases ha : fits a 2 <;> cases hb : fits b 4 <;> cases hp : pairOperands a b s <;>
    simp [accPairCmd, checkRange, ha, hb, hp, Cmd.raise, bind, Except.bind, pure, Except.pure]

/-- `lineDblCmd` completes exactly when the ranges fit, the destinations are disjoint, and T and P are canonical and
valid. -/
theorem lineDblCmd_eq (d a b : Idx) (s : State) :
    lineDblCmd d a b s =
      if fits d 12 && fits a 4 && fits b 2 && lineDisjoint d a then
        match loadG2 (s.operand a), loadG1 (s.operand b) with
        | some T, some P =>
          if isValidG2 T && isValidG1 P then .ok (lineEffect d a P (lineDbl T P))
          else .error ⟨.invalidOperandPoint, 0⟩
        | _, _ => .error ⟨.nonCanonicalOperand, 0⟩
      else .error ⟨.badOperand, 0⟩ := by
  cases hd : fits d 12 <;> cases ha : fits a 4 <;> cases hb : fits b 2 <;> cases hl : lineDisjoint d a <;>
    simp [lineDblCmd, checkRange, checkLineOverlap, hd, ha, hb, hl, Cmd.raise, bind, Except.bind]
  rcases loadG2 (s.operand a) with _ | T <;> rcases loadG1 (s.operand b) with _ | P <;> simp
  cases isValidG2 T <;> cases isValidG1 P <;> simp [pure, Except.pure]

/-- `lineAddCmd` completes exactly when the ranges fit, the destinations are disjoint, and T, Q and P are canonical and
valid. -/
theorem lineAddCmd_eq (d a b : Idx) (s : State) :
    lineAddCmd d a b s =
      if fits d 12 && fits a 8 && fits b 2 && lineDisjoint d a then
        match loadG2 (s.operand a), loadG2 (fun k => s.operand a (k + 4)), loadG1 (s.operand b) with
        | some T, some Q, some P =>
          if isValidG2 T && isValidG2 Q && isValidG1 P then .ok (lineEffect d a P (lineAdd T Q P))
          else .error ⟨.invalidOperandPoint, 0⟩
        | _, _, _ => .error ⟨.nonCanonicalOperand, 0⟩
      else .error ⟨.badOperand, 0⟩ := by
  cases hd : fits d 12 <;> cases ha : fits a 8 <;> cases hb : fits b 2 <;> cases hl : lineDisjoint d a <;>
    simp [lineAddCmd, checkRange, checkLineOverlap, hd, ha, hb, hl, Cmd.raise, bind, Except.bind]
  rcases loadG2 (s.operand a) with _ | T <;> rcases loadG2 (fun k => s.operand a (k + 4)) with _ | Q <;>
    rcases loadG1 (s.operand b) with _ | P <;> simp
  cases isValidG2 T <;> cases isValidG2 Q <;> cases isValidG1 P <;> simp [pure, Except.pure]

/-- `g2TestCmd` completes exactly when the range fits and the point's words are canonical. -/
theorem g2TestCmd_eq (test : G2 → Bool) (a : Idx) (s : State) :
    g2TestCmd test a s =
      if fits a 4 then
        match loadG2 (s.operand a) with
        | some q => .ok { result := test q }
        | none => .error ⟨.nonCanonicalOperand, 0⟩
      else .error ⟨.badOperand, 0⟩ := by
  cases ha : fits a 4 <;> cases hx : loadG2 (s.operand a) <;>
    simp [g2TestCmd, checkRange, ha, hx, Cmd.raise, bind, Except.bind, pure, Except.pure]

/-- `g1ChkCmd` completes exactly when the range fits and the point's words are canonical. -/
theorem g1ChkCmd_eq (a : Idx) (s : State) :
    g1ChkCmd a s =
      if fits a 2 then
        match loadG1 (s.operand a) with
        | some q => .ok { result := isValidG1 q }
        | none => .error ⟨.nonCanonicalOperand, 0⟩
      else .error ⟨.badOperand, 0⟩ := by
  cases ha : fits a 2 <;> cases hx : loadG1 (s.operand a) <;>
    simp [g1ChkCmd, checkRange, ha, hx, Cmd.raise, bind, Except.bind, pure, Except.pure]

/-- `decG1Cmd` completes exactly when the ranges fit and the decoder gives a point; else it raises the decoder's error. -/
theorem decG1Cmd_eq (d a : Idx) (s : State) :
    decG1Cmd d a s =
      if fits d 2 && fits a 2 then
        match decodeG1 (s.operand a 0) (s.operand a 1) with
        | .ok q => .ok { writes := [(d.toNat, storeG1 q)] }
        | .error e => .error ⟨e, 0⟩
      else .error ⟨.badOperand, 0⟩ := by
  cases hd : fits d 2 <;> cases ha : fits a 2 <;> cases hx : decodeG1 (s.operand a 0) (s.operand a 1) <;>
    simp [decG1Cmd, checkRange, hd, ha, hx, Cmd.raise, bind, Except.bind, pure, Except.pure]

/-- `decG2Cmd` completes exactly when the ranges fit and the decoder gives a point; else it raises the decoder's error. -/
theorem decG2Cmd_eq (d a : Idx) (s : State) :
    decG2Cmd d a s =
      if fits d 4 && fits a 4 then
        match decodeG2 (s.operand a 0) (s.operand a 1) (s.operand a 2) (s.operand a 3) with
        | .ok q => .ok { writes := [(d.toNat, storeG2 q)] }
        | .error e => .error ⟨e, 0⟩
      else .error ⟨.badOperand, 0⟩ := by
  cases hd : fits d 4 <;> cases ha : fits a 4 <;>
    cases hx : decodeG2 (s.operand a 0) (s.operand a 1) (s.operand a 2) (s.operand a 3) <;>
    simp [decG2Cmd, checkRange, hd, ha, hx, Cmd.raise, bind, Except.bind, pure, Except.pure]

/-- `decodeElement` gives the pair when both parts decode, else the first error, with the element and the part. -/
theorem decodeElement_eq (s : State) (i : Nat) :
    decodeElement s i =
      match decodeG1 (s.limb (6 * i)) (s.limb (6 * i + 1)) with
      | .error e => .error ⟨e, errInfoWord i false⟩
      | .ok P =>
        match decodeG2 (s.limb (6 * i + 2)) (s.limb (6 * i + 3)) (s.limb (6 * i + 4)) (s.limb (6 * i + 5)) with
        | .error e => .error ⟨e, errInfoWord i true⟩
        | .ok Q => .ok (P, Q) := by
  cases h1 : decodeG1 (s.limb (6 * i)) (s.limb (6 * i + 1)) <;>
    cases h2 : decodeG2 (s.limb (6 * i + 2)) (s.limb (6 * i + 3)) (s.limb (6 * i + 4)) (s.limb (6 * i + 5)) <;>
    simp [decodeElement, h1, h2, bind, Except.bind, pure, Except.pure]

@[simp] theorem decodeElements_zero (s : State) (i : Nat) : decodeElements s i 0 = .ok [] := rfl

theorem decodeElements_succ (s : State) (i k : Nat) :
    decodeElements s i (k + 1) =
      match decodeElement s i, decodeElements s (i + 1) k with
      | .ok pq, .ok rest => .ok (pq :: rest)
      | .ok _, .error r => .error r
      | .error r, _ => .error r := by
  cases h1 : decodeElement s i <;> cases h2 : decodeElements s (i + 1) k <;>
    simp [decodeElements, h1, h2, bind, Except.bind, pure, Except.pure]

/-- `evaluateCmd` by its cases: the length error, the empty input, the capacity error, a decode error, the check. -/
theorem evaluateCmd_eq (s : State) :
    evaluateCmd s =
      if s.len.toNat % 192 ≠ 0 then .error ⟨.invalidInputLength, 0⟩
      else if s.len.toNat = 0 then .ok { acc := some Fp12.one, result := true }
      else if s.ibufBytes < s.len.toNat then .error ⟨.capacityExceeded, 0⟩
      else match decodeElements s 0 (s.len.toNat / 192) with
        | .error r => .error r
        | .ok pairs =>
          .ok { acc := some (pairingProduct pairs), result := decide (pairingProduct pairs = Fp12.one) } := by
  cases h : decodeElements s 0 (s.len.toNat / 192) <;>
    simp [evaluateCmd, h, Cmd.raise, bind, Except.bind, pure, Except.pure]

end Sys2Proof.Machine
end

