-- ==== Sys2Proof/Laws/Exec.lean ====
section
/-! SUPPORT. Every arm of `exec` is the completion step of a body, and a completion step always answers a next state:
either the effect's or the fault's. -/

namespace Sys2Proof.Machine

/-- The body of each command: its checks and its effect. -/
def body : Instr → State → Cmd Effect
  | .nop, _ => .ok {}
  | .evaluate, s => evaluateCmd s
  | .ldib d k, s => ldibCmd d k s
  | .fpAdd d a b, s => binaryCmd fpLayout (fun x y => x + y) d a b s
  | .fpSub d a b, s => binaryCmd fpLayout (fun x y => x - y) d a b s
  | .fpNeg d a, s => unaryCmd fpLayout (fun x => -x) d a s
  | .fpMul d a b, s => binaryCmd fpLayout (fun x y => x * y) d a b s
  | .fpInv d a, s => nonzeroCmd fpLayout Fp.inv d a s
  | .fpEq a b, s => equalCmd fpLayout a b s
  | .fp2Add d a b, s => binaryCmd fp2Layout Fp2.add d a b s
  | .fp2Sub d a b, s => binaryCmd fp2Layout Fp2.sub d a b s
  | .fp2Neg d a, s => unaryCmd fp2Layout Fp2.neg d a s
  | .fp2Mul d a b, s => binaryCmd fp2Layout Fp2.mul d a b s
  | .fp2Inv d a, s => nonzeroCmd fp2Layout Fp2.inv d a s
  | .fp2Eq a b, s => equalCmd fp2Layout a b s
  | .fp6Add d a b, s => binaryCmd fp6Layout Fp6.add d a b s
  | .fp6Sub d a b, s => binaryCmd fp6Layout Fp6.sub d a b s
  | .fp6Neg d a, s => unaryCmd fp6Layout Fp6.neg d a s
  | .fp6Mul d a b, s => binaryCmd fp6Layout Fp6.mul d a b s
  | .fp6Inv d a, s => nonzeroCmd fp6Layout Fp6.inv d a s
  | .fp6Eq a b, s => equalCmd fp6Layout a b s
  | .fp12Add d a b, s => binaryCmd fp12Layout Fp12.add d a b s
  | .fp12Sub d a b, s => binaryCmd fp12Layout Fp12.sub d a b s
  | .fp12Neg d a, s => unaryCmd fp12Layout Fp12.neg d a s
  | .fp12Mul d a b, s => binaryCmd fp12Layout Fp12.mul d a b s
  | .fp12Inv d a, s => nonzeroCmd fp12Layout Fp12.inv d a s
  | .fp12Eq a b, s => equalCmd fp12Layout a b s
  | .decG1 d a, s => decG1Cmd d a s
  | .decG2 d a, s => decG2Cmd d a s
  | .g1Chk a, s => g1ChkCmd a s
  | .g2Chk a, s => g2TestCmd isValidG2 a s
  | .g2Subgrp a, s => g2TestCmd inG2 a s
  | .lineDbl d a b, s => lineDblCmd d a b s
  | .lineAdd d a b, s => lineAddCmd d a b s
  | .miller d a b, s => pairCmd miller d a b s
  | .finexp d a, s => nonzeroCmd fp12Layout finalExp d a s
  | .pair d a b, s => pairCmd pairing d a b s
  | .accInit, _ => .ok { acc := some Fp12.one }
  | .accPair a b, s => accPairCmd a b s
  | .accCheck, s => .ok { result := decide (s.acc = Fp12.one) }
  | .accStore d, s => accStoreCmd d s

/-- Every arm of `exec` is the completion step of its command's body. -/
theorem exec_eq_finish (i : Instr) (s : State) : exec i s = s.finish (body i s) := by cases i <;> rfl

theorem finish_ok (s : State) (e : Effect) : s.finish (.ok e) = .next (s.complete e) := rfl

theorem finish_error (s : State) (r : Raise) : s.finish (.error r) = .next (s.raise r) := rfl

/-- Everything a completion step can do: it completes with the body's effect, or raises the body's fault. -/
theorem finish_cases {s t : State} {c : Cmd Effect} (h : s.finish c = .next t) :
    (∃ e, c = .ok e ∧ t = s.complete e) ∨ (∃ r, c = .error r ∧ t = s.raise r) := by
  cases c with
  | ok e => exact .inl ⟨e, rfl, by simpa [State.finish] using h.symm⟩
  | error r => exact .inr ⟨r, rfl, by simpa [State.finish] using h.symm⟩

end Sys2Proof.Machine
end

