-- ==== Sys2Proof/Laws/Memory.lean ====
section
/-! SUPPORT. The laws of the input buffer's cells: what a write does to every read, and that it keeps the canonical
form. -/

namespace Sys2Proof.Machine.Memory

@[simp] theorem read_nil (a : Nat) : read [] a = unwrittenByte := rfl

theorem read_cons (c : Host.Cell) (m : List Host.Cell) (a : Nat) :
    read (c :: m) a = if c.1 = a then c.2 else read m a := rfl

@[simp] theorem wf_nil : wf [] = true := rfl

theorem wf_cons {c : Host.Cell} {m : List Host.Cell} :
    wf (c :: m) = true ↔ c.2 ≠ unwrittenByte ∧ (∀ c' ∈ m, c.1 < c'.1) ∧ wf m = true := by
  simp [wf, and_assoc]

/-- An index that no cell lists reads as unwritten. -/
theorem read_of_not_mem {m : List Host.Cell} {a : Nat} (h : ∀ c ∈ m, c.1 ≠ a) : read m a = unwrittenByte := by
  induction m with
  | nil => rfl
  | cons c m ih =>
    rw [read_cons, if_neg (h c (by simp)), ih fun c' hc' => h c' (by simp [hc'])]

/-- Every cell after a write is an old one or the written one. -/
theorem mem_write {m : List Host.Cell} {a : Nat} {v : Byte} {c : Host.Cell} (h : c ∈ write m a v) :
    c ∈ m ∨ c = (a, v) := by
  induction m with
  | nil => simp only [write] at h; split at h <;> simp_all
  | cons d m ih =>
    simp only [write] at h
    split at h
    · rcases List.mem_cons.mp h with h | h
      · exact .inl (by simp [h])
      · rcases ih h with h | h
        · exact .inl (by simp [h])
        · exact .inr h
    · split at h <;> split at h <;> simp at h ⊢ <;> tauto

/-- A write keeps the canonical form. -/
theorem wf_write {m : List Host.Cell} (h : wf m = true) (a : Nat) (v : Byte) : wf (write m a v) = true := by
  induction m with
  | nil => simp only [write]; split <;> simp_all [wf]
  | cons d m ih =>
    obtain ⟨hd, hlt, hm⟩ := wf_cons.mp h
    simp only [write]
    split
    · refine wf_cons.mpr ⟨hd, fun c hc => ?_, ih hm⟩
      rcases mem_write hc with hc | rfl
      · exact hlt c hc
      · assumption
    · have key : ∀ {c}, c ∈ (if d.1 = a then m else d :: m) → a < c.1 := by
        intro c hc
        split at hc
        · exact (by assumption : d.1 = a) ▸ hlt c hc
        · rcases List.mem_cons.mp hc with rfl | hc
          · omega
          · have := hlt c hc; omega
      have rest : wf (if d.1 = a then m else d :: m) = true := by split <;> assumption
      split
      · exact rest
      · exact wf_cons.mpr ⟨by assumption, fun c hc => key hc, rest⟩

/-- What a read gives after a write: the written byte at its index, the old byte at every other. -/
theorem read_write {m : List Host.Cell} (h : wf m = true) (a b : Nat) (v : Byte) :
    read (write m a v) b = if a = b then v else read m b := by
  induction m with
  | nil => simp only [write]; split <;> simp_all [read_cons]
  | cons d m ih =>
    obtain ⟨_, hlt, hm⟩ := wf_cons.mp h
    simp only [write]
    split
    · rw [read_cons, read_cons, ih hm]
      split
      · rw [if_neg (by omega)]
      · rfl
    · have gone : a = b → read (if d.1 = a then m else d :: m) b = unwrittenByte := by
        rintro rfl
        refine read_of_not_mem fun c hc => ?_
        split at hc
        · have := hlt c hc; omega
        · rcases List.mem_cons.mp hc with rfl | hc
          · assumption
          · have := hlt c hc; omega
      have same : a ≠ b → read (if d.1 = a then m else d :: m) b = read (d :: m) b := by
        intro hab
        split
        · rw [read_cons, if_neg (by omega)]
        · rfl
      split
      · subst v
        by_cases hab : a = b
        · rw [gone hab, if_pos hab]
        · rw [same hab, if_neg hab]
      · rw [read_cons]
        by_cases hab : a = b
        · simp [hab]
        · simp only [if_neg hab]; exact same hab

end Sys2Proof.Machine.Memory
end

