-- ==== Sys2Proof/Laws/PerInstr.lean ====
section
/-! SUPPORT. A law of the encoding, per instruction: the bits that carry no field of a command are written 0
(30_encoding.md R94, R101). -/

namespace Sys2Proof.Laws.UnusedBitsEncodeZero

/-- The encoder writes 0 in every bit of the word that the command does not use (R101). -/
def Statement (i : Instr) : Prop := encode i &&& ~~~usedBits i = 0

/-- A bit that a cleared mask bit leaves set is 0. -/
theorem getLsbD_mask {x m : BitVec 8} (h : x &&& ~~~m = 0) (i : Nat) (hx : x.getLsbD i = true) : m.getLsbD i = true := by
  have hb := congrArg (fun v => v.getLsbD i) h
  simpa [hx, BitVec.lt_of_getLsbD hx] using hb

/-- A mask made of whole fields: the word of fields that keep to it keeps to it. -/
theorem masked_word (op d a b mo md ma mb : BitVec 8) (ho : op &&& ~~~mo = 0) (hd : d &&& ~~~md = 0)
    (ha : a &&& ~~~ma = 0) (hb : b &&& ~~~mb = 0) :
    commandWord op d a b &&& ~~~(mo ++ md ++ ma ++ mb : BitVec 32) = 0 := by
  refine BitVec.eq_of_getLsbD_eq fun i hi => ?_
  have o := getLsbD_mask ho (i - 24)
  have d := getLsbD_mask hd (i - 16)
  have a := getLsbD_mask ha (i - 8)
  have b := getLsbD_mask hb i
  simp only [commandWord, BitVec.getLsbD_and, BitVec.getLsbD_not, BitVec.getLsbD_append, hi, decide_true, Bool.true_and]
  split_ifs <;> simp_all [Nat.sub_sub]

theorem nop : Statement (.nop) :=
  masked_word _ _ _ _ 0xff 0 0 0 (by simp) (by simp) (by simp) (by simp)

theorem evaluate : Statement (.evaluate) :=
  masked_word _ _ _ _ 0xff 0 0 0 (by simp) (by simp) (by simp) (by simp)

theorem ldib (d : Idx) (k : BitVec 16) : Statement (.ldib d k) :=
  masked_word _ _ _ _ 0xff 0xff 0xff 0xff (by simp) (by simp) (by simp) (by simp)

theorem fpAdd (d : Idx) (a : Idx) (b : Idx) : Statement (.fpAdd d a b) :=
  masked_word _ _ _ _ 0xff 0xff 0xff 0xff (by simp) (by simp) (by simp) (by simp)

theorem fpSub (d : Idx) (a : Idx) (b : Idx) : Statement (.fpSub d a b) :=
  masked_word _ _ _ _ 0xff 0xff 0xff 0xff (by simp) (by simp) (by simp) (by simp)

theorem fpNeg (d : Idx) (a : Idx) : Statement (.fpNeg d a) :=
  masked_word _ _ _ _ 0xff 0xff 0xff 0 (by simp) (by simp) (by simp) (by simp)

theorem fpMul (d : Idx) (a : Idx) (b : Idx) : Statement (.fpMul d a b) :=
  masked_word _ _ _ _ 0xff 0xff 0xff 0xff (by simp) (by simp) (by simp) (by simp)

theorem fpInv (d : Idx) (a : Idx) : Statement (.fpInv d a) :=
  masked_word _ _ _ _ 0xff 0xff 0xff 0 (by simp) (by simp) (by simp) (by simp)

theorem fpEq (a : Idx) (b : Idx) : Statement (.fpEq a b) :=
  masked_word _ _ _ _ 0xff 0 0xff 0xff (by simp) (by simp) (by simp) (by simp)

theorem fp2Add (d : Idx) (a : Idx) (b : Idx) : Statement (.fp2Add d a b) :=
  masked_word _ _ _ _ 0xff 0xff 0xff 0xff (by simp) (by simp) (by simp) (by simp)

theorem fp2Sub (d : Idx) (a : Idx) (b : Idx) : Statement (.fp2Sub d a b) :=
  masked_word _ _ _ _ 0xff 0xff 0xff 0xff (by simp) (by simp) (by simp) (by simp)

theorem fp2Neg (d : Idx) (a : Idx) : Statement (.fp2Neg d a) :=
  masked_word _ _ _ _ 0xff 0xff 0xff 0 (by simp) (by simp) (by simp) (by simp)

theorem fp2Mul (d : Idx) (a : Idx) (b : Idx) : Statement (.fp2Mul d a b) :=
  masked_word _ _ _ _ 0xff 0xff 0xff 0xff (by simp) (by simp) (by simp) (by simp)

theorem fp2Inv (d : Idx) (a : Idx) : Statement (.fp2Inv d a) :=
  masked_word _ _ _ _ 0xff 0xff 0xff 0 (by simp) (by simp) (by simp) (by simp)

theorem fp2Eq (a : Idx) (b : Idx) : Statement (.fp2Eq a b) :=
  masked_word _ _ _ _ 0xff 0 0xff 0xff (by simp) (by simp) (by simp) (by simp)

theorem fp6Add (d : Idx) (a : Idx) (b : Idx) : Statement (.fp6Add d a b) :=
  masked_word _ _ _ _ 0xff 0xff 0xff 0xff (by simp) (by simp) (by simp) (by simp)

theorem fp6Sub (d : Idx) (a : Idx) (b : Idx) : Statement (.fp6Sub d a b) :=
  masked_word _ _ _ _ 0xff 0xff 0xff 0xff (by simp) (by simp) (by simp) (by simp)

theorem fp6Neg (d : Idx) (a : Idx) : Statement (.fp6Neg d a) :=
  masked_word _ _ _ _ 0xff 0xff 0xff 0 (by simp) (by simp) (by simp) (by simp)

theorem fp6Mul (d : Idx) (a : Idx) (b : Idx) : Statement (.fp6Mul d a b) :=
  masked_word _ _ _ _ 0xff 0xff 0xff 0xff (by simp) (by simp) (by simp) (by simp)

theorem fp6Inv (d : Idx) (a : Idx) : Statement (.fp6Inv d a) :=
  masked_word _ _ _ _ 0xff 0xff 0xff 0 (by simp) (by simp) (by simp) (by simp)

theorem fp6Eq (a : Idx) (b : Idx) : Statement (.fp6Eq a b) :=
  masked_word _ _ _ _ 0xff 0 0xff 0xff (by simp) (by simp) (by simp) (by simp)

theorem fp12Add (d : Idx) (a : Idx) (b : Idx) : Statement (.fp12Add d a b) :=
  masked_word _ _ _ _ 0xff 0xff 0xff 0xff (by simp) (by simp) (by simp) (by simp)

theorem fp12Sub (d : Idx) (a : Idx) (b : Idx) : Statement (.fp12Sub d a b) :=
  masked_word _ _ _ _ 0xff 0xff 0xff 0xff (by simp) (by simp) (by simp) (by simp)

theorem fp12Neg (d : Idx) (a : Idx) : Statement (.fp12Neg d a) :=
  masked_word _ _ _ _ 0xff 0xff 0xff 0 (by simp) (by simp) (by simp) (by simp)

theorem fp12Mul (d : Idx) (a : Idx) (b : Idx) : Statement (.fp12Mul d a b) :=
  masked_word _ _ _ _ 0xff 0xff 0xff 0xff (by simp) (by simp) (by simp) (by simp)

theorem fp12Inv (d : Idx) (a : Idx) : Statement (.fp12Inv d a) :=
  masked_word _ _ _ _ 0xff 0xff 0xff 0 (by simp) (by simp) (by simp) (by simp)

theorem fp12Eq (a : Idx) (b : Idx) : Statement (.fp12Eq a b) :=
  masked_word _ _ _ _ 0xff 0 0xff 0xff (by simp) (by simp) (by simp) (by simp)

theorem decG1 (d : Idx) (a : Idx) : Statement (.decG1 d a) :=
  masked_word _ _ _ _ 0xff 0xff 0xff 0 (by simp) (by simp) (by simp) (by simp)

theorem decG2 (d : Idx) (a : Idx) : Statement (.decG2 d a) :=
  masked_word _ _ _ _ 0xff 0xff 0xff 0 (by simp) (by simp) (by simp) (by simp)

theorem g1Chk (a : Idx) : Statement (.g1Chk a) :=
  masked_word _ _ _ _ 0xff 0 0xff 0 (by simp) (by simp) (by simp) (by simp)

theorem g2Chk (a : Idx) : Statement (.g2Chk a) :=
  masked_word _ _ _ _ 0xff 0 0xff 0 (by simp) (by simp) (by simp) (by simp)

theorem g2Subgrp (a : Idx) : Statement (.g2Subgrp a) :=
  masked_word _ _ _ _ 0xff 0 0xff 0 (by simp) (by simp) (by simp) (by simp)

theorem lineDbl (d : Idx) (a : Idx) (b : Idx) : Statement (.lineDbl d a b) :=
  masked_word _ _ _ _ 0xff 0xff 0xff 0xff (by simp) (by simp) (by simp) (by simp)

theorem lineAdd (d : Idx) (a : Idx) (b : Idx) : Statement (.lineAdd d a b) :=
  masked_word _ _ _ _ 0xff 0xff 0xff 0xff (by simp) (by simp) (by simp) (by simp)

theorem miller (d : Idx) (a : Idx) (b : Idx) : Statement (.miller d a b) :=
  masked_word _ _ _ _ 0xff 0xff 0xff 0xff (by simp) (by simp) (by simp) (by simp)

theorem finexp (d : Idx) (a : Idx) : Statement (.finexp d a) :=
  masked_word _ _ _ _ 0xff 0xff 0xff 0 (by simp) (by simp) (by simp) (by simp)

theorem pair (d : Idx) (a : Idx) (b : Idx) : Statement (.pair d a b) :=
  masked_word _ _ _ _ 0xff 0xff 0xff 0xff (by simp) (by simp) (by simp) (by simp)

theorem accInit : Statement (.accInit) :=
  masked_word _ _ _ _ 0xff 0 0 0 (by simp) (by simp) (by simp) (by simp)

theorem accPair (a : Idx) (b : Idx) : Statement (.accPair a b) :=
  masked_word _ _ _ _ 0xff 0 0xff 0xff (by simp) (by simp) (by simp) (by simp)

theorem accCheck : Statement (.accCheck) :=
  masked_word _ _ _ _ 0xff 0 0 0 (by simp) (by simp) (by simp) (by simp)

theorem accStore (d : Idx) : Statement (.accStore d) :=
  masked_word _ _ _ _ 0xff 0xff 0 0 (by simp) (by simp) (by simp) (by simp)

end Sys2Proof.Laws.UnusedBitsEncodeZero
end

