-- ==== Sys2Proof/Laws/Step.lean ====
section
/-! SUPPORT. What one step can do, and the address map. -/

namespace Sys2Proof.Machine

theorem step_of_coreTurn {s : State} (h : s.coreTurn = true) : step s = coreStep s := by simp [step, h]

theorem step_of_hostTurn {s : State} (h : s.coreTurn = false) : step s = .next s.hostMove := by simp [step, h]

theorem coreTurn_busy {s : State} (h : s.coreTurn = true) : s.busy = true := by
  simp [State.coreTurn] at h; exact h.1

/-- The core's step: the body of the decoded command, or the IllegalOpcode fault. -/
theorem coreStep_eq (s : State) :
    coreStep s = match decode s.lastCmd with
      | .ok i => s.finish (body i s)
      | .error _ => .next (s.raise ⟨.illegalOpcode, 0⟩) := by
  simp only [coreStep]
  split <;> simp_all [exec_eq_finish]

/-- The core's step always answers a next state: the completion with an effect or with a fault. -/
theorem coreStep_cases (s : State) :
    (∃ e, coreStep s = .next (s.complete e)) ∨ (∃ r, coreStep s = .next (s.raise r)) := by
  rw [coreStep_eq]
  split
  · rename_i i _
    cases h : body i s with
    | ok e => exact .inl ⟨e, finish_ok s e⟩
    | error r => exact .inr ⟨r, finish_error s r⟩
  · exact .inr ⟨_, rfl⟩

/-- Everything a step can do: the core completes the command in flight, or the host makes its move. -/
theorem step_cases {s t : State} (h : step s = .next t) :
    (s.coreTurn = true ∧ ∃ e, t = s.complete e) ∨ (s.coreTurn = true ∧ ∃ r, t = s.raise r) ∨
      (s.coreTurn = false ∧ t = s.hostMove) := by
  cases hc : s.coreTurn with
  | false => rw [step_of_hostTurn hc] at h; exact .inr (.inr ⟨rfl, by simpa using h.symm⟩)
  | true =>
    rw [step_of_coreTurn hc] at h
    rcases coreStep_cases s with ⟨e, he⟩ | ⟨r, hr⟩
    · rw [he] at h; exact .inl ⟨rfl, e, by simpa using h.symm⟩
    · rw [hr] at h; exact .inr (.inl ⟨rfl, r, by simpa using h.symm⟩)

/-! ### The address map -/

/-- The offset of bus word `j` of scratch word `k` is mapped to it (R64). -/
theorem regionAt_scratch (m : Nat) {k j : Nat} (hk : k < 256) (hj : j < 8) :
    regionAt m (0x2000 + 32 * k + 4 * j) = .scratch k j := by
  generalize ho : 0x2000 + 32 * k + 4 * j = off
  have h1 : (off - 0x2000) / 32 = k := by omega
  have h2 : (off - 0x2000) % 32 / 4 = j := by omega
  simp only [regionAt, h1, h2]
  split_ifs <;> first | rfl | omega

/-- The offset of input byte `j` is mapped to it while it exists (R65). -/
theorem regionAt_ibuf {m j : Nat} (hj : j < m) : regionAt m (0x8000 + j) = .ibuf j := by
  generalize ho : 0x8000 + j = off
  have h1 : off - 0x8000 = j := by omega
  simp only [regionAt, h1]
  split_ifs <;> first | rfl | omega

/-- An offset mapped to the input buffer names a byte that exists. -/
theorem regionAt_eq_ibuf {m off j : Nat} (h : regionAt m off = .ibuf j) : off = 0x8000 + j ∧ j < m := by
  simp only [regionAt] at h
  split_ifs at h
  simp at h
  omega

/-- An offset mapped to the scratch file names a word and a bus word that exist. -/
theorem regionAt_eq_scratch {m off k j : Nat} (h : regionAt m off = .scratch k j) : k < 256 ∧ j < 8 := by
  simp only [regionAt] at h
  split_ifs at h
  simp at h
  omega

end Sys2Proof.Machine
end

