-- ==== Sys2Proof/Tests/Slice0.lean ====
section
/-! SUPPORT. Tests. The expected values of the effect tests are those of 95_test_vectors.md, whose test each docstring
names; the decode tests spell words out from R90 to R92. The last part shows, for every statement with hypotheses, a
state and operands that meet them. -/

namespace Sys2Proof.Tests
open Sys2Proof.Machine

set_option Elab.async false

/-! ### Decoding -/

theorem test_decode_control :
    decode 0x00000000 = .ok .nop ∧
    decode 0x01000000 = .ok .evaluate ∧
    decode 0x01ffffff = .ok .evaluate ∧
    decode 0x020503fb = .ok (.ldib 5 1019) := by decide

theorem test_decode_fp :
    decode 0x10073c78 = .ok (.fpAdd 7 60 120) ∧
    decode 0x11073c78 = .ok (.fpSub 7 60 120) ∧
    decode 0x12073c00 = .ok (.fpNeg 7 60) ∧
    decode 0x13073c78 = .ok (.fpMul 7 60 120) ∧
    decode 0x14073c00 = .ok (.fpInv 7 60) ∧
    decode 0x15003c78 = .ok (.fpEq 60 120) := by decide

theorem test_decode_fp2 :
    decode 0x20073c78 = .ok (.fp2Add 7 60 120) ∧
    decode 0x21073c78 = .ok (.fp2Sub 7 60 120) ∧
    decode 0x22073c00 = .ok (.fp2Neg 7 60) ∧
    decode 0x23073c78 = .ok (.fp2Mul 7 60 120) ∧
    decode 0x24073c00 = .ok (.fp2Inv 7 60) ∧
    decode 0x25003c78 = .ok (.fp2Eq 60 120) := by decide

theorem test_decode_fp6 :
    decode 0x30073c78 = .ok (.fp6Add 7 60 120) ∧
    decode 0x31073c78 = .ok (.fp6Sub 7 60 120) ∧
    decode 0x32073c00 = .ok (.fp6Neg 7 60) ∧
    decode 0x33073c78 = .ok (.fp6Mul 7 60 120) ∧
    decode 0x34073c00 = .ok (.fp6Inv 7 60) ∧
    decode 0x35003c78 = .ok (.fp6Eq 60 120) := by decide

theorem test_decode_fp12 :
    decode 0x40073c78 = .ok (.fp12Add 7 60 120) ∧
    decode 0x41073c78 = .ok (.fp12Sub 7 60 120) ∧
    decode 0x42073c00 = .ok (.fp12Neg 7 60) ∧
    decode 0x43073c78 = .ok (.fp12Mul 7 60 120) ∧
    decode 0x44073c00 = .ok (.fp12Inv 7 60) ∧
    decode 0x45003c78 = .ok (.fp12Eq 60 120) := by decide

theorem test_decode_curve :
    decode 0x500a0100 = .ok (.decG1 10 1) ∧
    decode 0x510c0200 = .ok (.decG2 12 2) ∧
    decode 0x52000300 = .ok (.g1Chk 3) ∧
    decode 0x53000c00 = .ok (.g2Chk 12) ∧
    decode 0x54000d00 = .ok (.g2Subgrp 13) := by decide

theorem test_decode_pairing :
    decode 0x6014020a = .ok (.lineDbl 20 2 10) ∧
    decode 0x61140203 = .ok (.lineAdd 20 2 3) ∧
    decode 0x62140102 = .ok (.miller 20 1 2) ∧
    decode 0x63201400 = .ok (.finexp 32 20) ∧
    decode 0x64200102 = .ok (.pair 32 1 2) := by decide

theorem test_decode_aggregator :
    decode 0x70000000 = .ok .accInit ∧
    decode 0x71000602 = .ok (.accPair 6 2) ∧
    decode 0x72000000 = .ok .accCheck ∧
    decode 0x73140000 = .ok (.accStore 20) := by decide

/-- The unused fields of a word are ignored (R94; T-FP-8, T-CT-12). -/
theorem test_decode_ignores_unused :
    decode 0x12010055 = .ok (.fpNeg 1 0) ∧ decode 0x15ff0203 = .ok (.fpEq 2 3) ∧ decode 0x73140506 = .ok (.accStore
      20) := by
  decide

/-- The first and the last opcode of every reserved range of R99 (T-CT-7 to T-CT-9, T-CT-13). -/
theorem test_decode_reserved :
    ([0x03, 0x0f, 0x16, 0x1f, 0x26, 0x2f, 0x36, 0x3f, 0x46, 0x4f, 0x55, 0x5f, 0x65, 0x6f, 0x74, 0xff] :
      List (BitVec 8)).all (fun op => decide (decode (commandWord op 1 2 3) = .error (.illegalOpcode op))) = true :=
        by
  decide

theorem test_decodeTableWord :
    decodeTableWord 32 0x10020001 = some (.fpAdd 2 0 1) ∧ decodeTableWord 32 0x03000000 = none := by decide

/-! ### Well-formedness: an ill-formed term for each check, refused -/

theorem test_wellFormed_d : (Instr.fp12Add 245 0 0).wellFormed 170 = false := by decide
theorem test_wellFormed_a : (Instr.lineAdd 0 249 20).wellFormed 170 = false := by decide
theorem test_wellFormed_b : (Instr.accPair 0 253).wellFormed 170 = false := by decide
theorem test_wellFormed_overlap :
    (Instr.lineDbl 0 4 20).wellFormed 170 = false ∧ (Instr.lineDbl 5 2 20).wellFormed 170 = false ∧
      (Instr.lineDbl 6 2 20).wellFormed 170 = true ∧ (Instr.lineDbl 0 12 20).wellFormed 170 = true := by decide
theorem test_wellFormed_limb :
    (Instr.ldib 0 1020).wellFormed 170 = false ∧ (Instr.ldib 0 1019).wellFormed 170 = true ∧
      (Instr.ldib 0 6).wellFormed 1 = false := by decide
theorem test_wellFormed_last :
    (Instr.fpAdd 255 255 255).wellFormed 170 = true ∧ (Instr.accStore 244).wellFormed 170 = true := by
  decide

/-! ### Commands: one step each -/

/-- The reset state with words written into the scratch file, as (index, words). -/
def stateWith (bs : List (Nat × List Nat)) : State :=
  bs.foldl (fun s b => s.setWords b.1 (b.2.map (BitVec.ofNat 256))) State.reset

/-- The reset state with an input buffer and a length. -/
def inputWith (cells : List Host.Cell) (len : BusWord) : State := { State.reset with ibuf := cells, len := len }

/-- STATUS and the `w` words from index `d` after the step that runs the command word `c`. -/
def outcome (s : State) (c d w : Nat) : Option (BusWord × List Nat) :=
  match step (s.withFetchWord 32 c) with
  | .next t => some (t.statusWord, (List.range' d w).map fun k => (t.word k).toNat)
  | _ => none

/-- T-FP-1. -/
theorem test_fp_add_wraps :
    outcome (stateWith [(0, [0x30644e72e131a029b85045b68181585d97816a916871ca8d3c208c16d87cfd46, 2])]) 0x10020001
      2 1 = some (0x2, [1]) := by
  decide +kernel

/-- T-FP-16. -/
theorem test_fp_add_noncanonical :
    outcome (stateWith [(0, [0x30644e72e131a029b85045b68181585d97816a916871ca8d3c208c16d87cfd47, 1])]) 0x10020001
      2 1 = some (0x706, [0]) := by
  decide +kernel

/-- T-FP-4. -/
theorem test_fp_sub_wraps :
    outcome (stateWith [(0, [0, 1])]) 0x11020001 2 1 = some (0x2,
      [0x30644e72e131a029b85045b68181585d97816a916871ca8d3c208c16d87cfd46]) := by
  decide +kernel

/-- T-FP-7. -/
theorem test_fp_neg :
    outcome (stateWith [(0, [2])]) 0x12010000 1 1 = some (0x2,
      [0x30644e72e131a029b85045b68181585d97816a916871ca8d3c208c16d87cfd45]) := by
  decide +kernel

/-- T-FP-6. -/
theorem test_fp_neg_zero : outcome (stateWith []) 0x12010000 1 1 = some (0x2, [0]) := by
  decide +kernel

/-- T-FP-10. -/
theorem test_fp_mul :
    outcome (stateWith [(0, [0x100000000000000000000000000000000, 0x100000000000000000000000000000000])])
      0x13020001 2 1 = some (0x2, [0xe0a77c19a07df2f666ea36f7879462c0a78eb28f5c70b3dd35d438dc58f0d9d]) := by
  decide +kernel

/-- T-FP-11. -/
theorem test_fp_inv :
    outcome (stateWith [(1, [2])]) 0x14040100 4 1 = some (0x2,
      [0x183227397098d014dc2822db40c0ac2ecbc0b548b438e5469e10460b6c3e7ea4]) := by
  decide +kernel

/-- T-FP-13. -/
theorem test_fp_inv_zero : outcome (stateWith [(4, [9])]) 0x14040100 4 1 = some (0x806, [9]) := by
  decide +kernel

/-- T-FP-14. -/
theorem test_fp_eq : outcome (stateWith [(2, [1, 1])]) 0x15000203 2 2 = some (0xa, [1, 1]) := by
  decide +kernel

/-- T-FP-15. -/
theorem test_fp_eq_differs : outcome (stateWith [(2, [1, 2])]) 0x15000203 2 2 = some (0x2, [1, 2]) := by
  decide +kernel

/-- T-F2-1. -/
theorem test_fp2_add : outcome (stateWith [(0, [1, 2, 3, 4])]) 0x20040002 4 2 = some (0x2, [4, 6]) := by
  decide +kernel

/-- T-F2-13. -/
theorem test_fp2_add_range : outcome (stateWith []) 0x20ff0000 255 1 = some (0x606, [0]) := by
  decide +kernel

/-- T-F2-3. -/
theorem test_fp2_sub :
    outcome (stateWith [(0, [1, 2, 3, 4])]) 0x21040002 4 2 = some (0x2,
      [0x30644e72e131a029b85045b68181585d97816a916871ca8d3c208c16d87cfd45,
      0x30644e72e131a029b85045b68181585d97816a916871ca8d3c208c16d87cfd45]) := by
  decide +kernel

/-- T-F2-4. -/
theorem test_fp2_neg :
    outcome (stateWith [(0, [1, 2, 3, 4])]) 0x22040000 4 2 = some (0x2,
      [0x30644e72e131a029b85045b68181585d97816a916871ca8d3c208c16d87cfd46,
      0x30644e72e131a029b85045b68181585d97816a916871ca8d3c208c16d87cfd45]) := by
  decide +kernel

/-- T-F2-5. -/
theorem test_fp2_mul :
    outcome (stateWith [(0, [1, 2, 3, 4])]) 0x23040002 4 2 = some (0x2,
      [0x30644e72e131a029b85045b68181585d97816a916871ca8d3c208c16d87cfd42, 10]) := by
  decide +kernel

/-- T-F2-8. -/
theorem test_fp2_inv :
    outcome (stateWith [(0, [9, 1])]) 0x24020000 2 2 = some (0x2,
      [0x2e9f1362305ea3ab50ca36acb4f65e7fa1928902b8ea81948e3855034733bbd1,
      0x20753adca9c6bfb81499be5e509e8f8ff21b7c8d3cb039cf1ef69c66bce9b020]) := by
  decide +kernel

/-- T-F2-10. -/
theorem test_fp2_inv_half_zero :
    outcome (stateWith [(0, [0, 5])]) 0x24020000 2 2 = some (0x2, [0,
      0x135b52945a13d9aa49b9b57c33cd568bd633c43a29c71dd2180d04d5f031fee9]) := by
  decide +kernel

/-- T-F2-11. -/
theorem test_fp2_eq : outcome (stateWith [(0, [1, 2, 1, 2])]) 0x25000002 0 4 = some (0xa, [1, 2, 1, 2]) := by
  decide +kernel

/-- T-F2-12. -/
theorem test_fp2_eq_order : outcome (stateWith [(0, [1, 2, 2, 1])]) 0x25000002 0 4 = some (0x2, [1, 2, 2, 1]) := by
  decide +kernel

/-- T-F6-1. -/
theorem test_fp6_add :
    outcome (stateWith [(0, [0, 0, 1, 0, 0, 0, 0, 0, 0, 0, 1, 0])]) 0x300c0006 12 6 = some (0x2, [0, 0, 1, 0, 1,
      0]) := by
  decide +kernel

/-- T-F6-2. -/
theorem test_fp6_sub :
    outcome (stateWith [(0, [1, 0, 1, 0, 0, 0, 1, 0, 0, 0, 0, 0])]) 0x310c0006 12 6 = some (0x2, [0, 0, 1, 0, 0,
      0]) := by
  decide +kernel

/-- T-F6-3. -/
theorem test_fp6_neg :
    outcome (stateWith [(0, [0, 0, 1, 0, 0, 0])]) 0x320c0000 12 6 = some (0x2, [0, 0,
      0x30644e72e131a029b85045b68181585d97816a916871ca8d3c208c16d87cfd46, 0, 0, 0]) := by
  decide +kernel

/-- T-F6-4. -/
theorem test_fp6_mul :
    outcome (stateWith [(0, [0, 0, 0, 0, 1, 0, 0, 0, 1, 0, 0, 0])]) 0x330c0006 12 6 = some (0x2, [9, 1, 0, 0, 0,
      0]) := by
  decide +kernel

/-- T-F6-5. -/
theorem test_fp6_inv :
    outcome (stateWith [(0, [0, 0, 1, 0, 0, 0])]) 0x340c0000 12 6 = some (0x2, [0, 0, 0, 0,
      0x2e9f1362305ea3ab50ca36acb4f65e7fa1928902b8ea81948e3855034733bbd1,
      0x20753adca9c6bfb81499be5e509e8f8ff21b7c8d3cb039cf1ef69c66bce9b020]) := by
  decide +kernel

/-- T-F6-7. -/
theorem test_fp6_inv_zero : outcome (stateWith []) 0x340c0000 12 6 = some (0x806, [0, 0, 0, 0, 0, 0]) := by
  decide +kernel

/-- T-F6-8. -/
theorem test_fp6_eq :
    outcome (stateWith [(0, [0, 0, 1, 0, 0, 0, 0, 0, 0, 0, 1, 0])]) 0x35000006 0 6 = some (0x2, [0, 0, 1, 0, 0,
      0]) := by
  decide +kernel

/-- T-F12-1. -/
theorem test_fp12_add :
    outcome (stateWith [(0, [1, 0, 0, 0, 0, 0, 0, 0, 0, 0, 0, 0, 1, 0, 0, 0, 0, 0, 0, 0, 0, 0, 0, 0])]) 0x4018000c
      24 12 = some (0x2, [2, 0, 0, 0, 0, 0, 0, 0, 0, 0, 0, 0]) := by
  decide +kernel

/-- T-F12-2. -/
theorem test_fp12_sub :
    outcome (stateWith [(12, [1, 0, 0, 0, 0, 0, 0, 0, 0, 0, 0, 0])]) 0x4118000c 24 12 = some (0x2,
      [0x30644e72e131a029b85045b68181585d97816a916871ca8d3c208c16d87cfd46, 0, 0, 0, 0, 0, 0, 0, 0, 0, 0, 0]) := by
  decide +kernel

/-- T-F12-3. -/
theorem test_fp12_neg :
    outcome (stateWith [(0, [0, 0, 0, 0, 0, 0, 1, 0, 0, 0, 0, 0])]) 0x42180000 24 12 = some (0x2, [0, 0, 0, 0, 0,
      0, 0x30644e72e131a029b85045b68181585d97816a916871ca8d3c208c16d87cfd46, 0, 0, 0, 0, 0]) := by
  decide +kernel

/-- T-F12-5. -/
theorem test_fp12_mul_in_place :
    outcome (stateWith [(0, [0, 0, 0, 0, 0, 0, 1, 0, 0, 0, 0, 0])]) 0x43000000 0 12 = some (0x2, [0, 0, 1, 0, 0,
      0, 0, 0, 0, 0, 0, 0]) := by
  decide +kernel

/-- T-F12-10. -/
theorem test_fp12_mul_last :
    outcome (stateWith [(0, [0, 0, 0, 0, 0, 0, 1, 0, 0, 0, 0, 0])]) 0x43f40000 244 12 = some (0x2, [0, 0, 1, 0, 0,
      0, 0, 0, 0, 0, 0, 0]) := by
  decide +kernel

/-- T-F12-6. -/
theorem test_fp12_inv :
    outcome (stateWith [(0, [0, 0, 0, 0, 0, 0, 1, 0, 0, 0, 0, 0])]) 0x44180000 24 12 = some (0x2, [0, 0, 0, 0, 0,
      0, 0, 0, 0, 0, 0x2e9f1362305ea3ab50ca36acb4f65e7fa1928902b8ea81948e3855034733bbd1,
      0x20753adca9c6bfb81499be5e509e8f8ff21b7c8d3cb039cf1ef69c66bce9b020]) := by
  decide +kernel

/-- T-F12-8. -/
theorem test_fp12_eq :
    outcome (stateWith [(0, [1, 0, 0, 0, 0, 0, 0, 0, 0, 0, 0, 0, 1, 0, 0, 0, 0, 0, 0, 0, 0, 0, 0, 0])]) 0x4500000c
      0 1 = some (0xa, [1]) := by
  decide +kernel

/-- T-CV-1. -/
theorem test_dec_g1 : outcome (stateWith [(0, [1, 2])]) 0x500a0000 10 2 = some (0x2, [1, 2]) := by
  decide +kernel

/-- T-CV-5. -/
theorem test_dec_g1_half_zero : outcome (stateWith [(0, [0, 1])]) 0x500a0000 10 2 = some (0x306, [0, 0]) := by
  decide +kernel

/-- T-CV-14. -/
theorem test_dec_g2_infinity :
    outcome (stateWith [(12, [1, 1, 1, 1])]) 0x510c0200 12 4 = some (0x2, [0, 0, 0, 0]) := by
  decide +kernel

/-- T-CV-12. -/
theorem test_dec_g2_order :
    outcome (stateWith [(2, [0x1800deef121f1e76426a00665e5c4479674322d4f75edadd46debd5cd992f6ed,
      0x198e9393920d483a7260bfb731fb5d25f1aa493335a9e71297e485b7aef312c2,
      0x12c85ea5db8c6deb4aab71808dcb408fe3d1e7690c43d37b4ce6cc0166fa7daa,
      0x90689d0585ff075ec9e99ad690c3395bc4b313370b38ef355acdadcd122975b])]) 0x510c0200 12 4 = some (0x306, [0, 0,
      0, 0]) := by
  decide +kernel

/-- T-CV-16. -/
theorem test_g1_chk : outcome (stateWith [(0, [1, 2])]) 0x52000000 0 2 = some (0xa, [1, 2]) := by
  decide +kernel

/-- T-CV-17. -/
theorem test_g1_chk_off : outcome (stateWith [(0, [1, 3])]) 0x52000000 0 2 = some (0x2, [1, 3]) := by
  decide +kernel

/-- T-CV-20. -/
theorem test_g2_chk :
    outcome (stateWith [(12, [0x1800deef121f1e76426a00665e5c4479674322d4f75edadd46debd5cd992f6ed,
      0x198e9393920d483a7260bfb731fb5d25f1aa493335a9e71297e485b7aef312c2,
      0x12c85ea5db8c6deb4aab71808dcb408fe3d1e7690c43d37b4ce6cc0166fa7daa,
      0x90689d0585ff075ec9e99ad690c3395bc4b313370b38ef355acdadcd122975b])]) 0x53000c00 12 4 = some (0xa,
      [0x1800deef121f1e76426a00665e5c4479674322d4f75edadd46debd5cd992f6ed,
      0x198e9393920d483a7260bfb731fb5d25f1aa493335a9e71297e485b7aef312c2,
      0x12c85ea5db8c6deb4aab71808dcb408fe3d1e7690c43d37b4ce6cc0166fa7daa,
      0x90689d0585ff075ec9e99ad690c3395bc4b313370b38ef355acdadcd122975b]) := by
  decide +kernel

/-- T-CV-25. -/
theorem test_g2_subgrp_infinity : outcome (stateWith []) 0x54000c00 12 4 = some (0xa, [0, 0, 0, 0]) := by
  decide +kernel

/-- T-CV-24. -/
theorem test_g2_subgrp_off : outcome (stateWith [(12, [1, 0, 1, 0])]) 0x54000c00 12 4 = some (0x2, [1, 0, 1, 0]) := by
  decide +kernel

/-- T-PR-1, the point. -/
theorem test_line_dbl_point :
    outcome (stateWith [(0, [1, 2, 0x1800deef121f1e76426a00665e5c4479674322d4f75edadd46debd5cd992f6ed,
      0x198e9393920d483a7260bfb731fb5d25f1aa493335a9e71297e485b7aef312c2,
      0x12c85ea5db8c6deb4aab71808dcb408fe3d1e7690c43d37b4ce6cc0166fa7daa,
      0x90689d0585ff075ec9e99ad690c3395bc4b313370b38ef355acdadcd122975b,
      0x1800deef121f1e76426a00665e5c4479674322d4f75edadd46debd5cd992f6ed,
      0x198e9393920d483a7260bfb731fb5d25f1aa493335a9e71297e485b7aef312c2,
      0x12c85ea5db8c6deb4aab71808dcb408fe3d1e7690c43d37b4ce6cc0166fa7daa,
      0x90689d0585ff075ec9e99ad690c3395bc4b313370b38ef355acdadcd122975b])]) 0x60140200 2 4 = some (0x2,
      [0x27dc7234fd11d3e8c36c59277c3e6f149d5cd3cfa9a62aee49f8130962b4b3b9,
      0x203e205db4f19b37b60121b83a7333706db86431c6d835849957ed8c3928ad79,
      0x4bb53b8977e5f92a0bc372742c4830944a59b4fe6b1c0466e2a6dad122b5d2e,
      0x195e8aa5b7827463722b8c153931579d3505566b4edf48d498e185f0509de152]) := by
  decide +kernel

/-- T-PR-1, the line value. -/
theorem test_line_dbl_value :
    outcome (stateWith [(0, [1, 2, 0x1800deef121f1e76426a00665e5c4479674322d4f75edadd46debd5cd992f6ed,
      0x198e9393920d483a7260bfb731fb5d25f1aa493335a9e71297e485b7aef312c2,
      0x12c85ea5db8c6deb4aab71808dcb408fe3d1e7690c43d37b4ce6cc0166fa7daa,
      0x90689d0585ff075ec9e99ad690c3395bc4b313370b38ef355acdadcd122975b,
      0x1800deef121f1e76426a00665e5c4479674322d4f75edadd46debd5cd992f6ed,
      0x198e9393920d483a7260bfb731fb5d25f1aa493335a9e71297e485b7aef312c2,
      0x12c85ea5db8c6deb4aab71808dcb408fe3d1e7690c43d37b4ce6cc0166fa7daa,
      0x90689d0585ff075ec9e99ad690c3395bc4b313370b38ef355acdadcd122975b])]) 0x60140200 20 12 = some (0x2, [2, 0,
      0, 0, 0, 0, 0xce69bdf84ed6d6d204fe74db6b371d37e4615ab1b3d578c32d1af5736582972,
      0x1e23d69196b41dbf47d406f500e66ea29c8764b3fd262357407c3d96bb3ba710,
      0x3b7178c857630da7676d0000961488f8fbce03349a8dc1dd6e067932b6a7e0d,
      0x2b17c2b12c26fdd0e3520b9dfa601ead6f0bf9cd98c81278efe1e96b86397652, 0, 0]) := by
  decide +kernel

/-- T-PR-2, the point. -/
theorem test_line_add_point :
    outcome (stateWith [(0, [1, 2, 0x27dc7234fd11d3e8c36c59277c3e6f149d5cd3cfa9a62aee49f8130962b4b3b9,
      0x203e205db4f19b37b60121b83a7333706db86431c6d835849957ed8c3928ad79,
      0x4bb53b8977e5f92a0bc372742c4830944a59b4fe6b1c0466e2a6dad122b5d2e,
      0x195e8aa5b7827463722b8c153931579d3505566b4edf48d498e185f0509de152,
      0x1800deef121f1e76426a00665e5c4479674322d4f75edadd46debd5cd992f6ed,
      0x198e9393920d483a7260bfb731fb5d25f1aa493335a9e71297e485b7aef312c2,
      0x12c85ea5db8c6deb4aab71808dcb408fe3d1e7690c43d37b4ce6cc0166fa7daa,
      0x90689d0585ff075ec9e99ad690c3395bc4b313370b38ef355acdadcd122975b])]) 0x61140200 2 4 = some (0x2,
      [0x6064e784db10e9051e52826e192715e8d7e478cb09a5e0012defa0694fbc7f5,
      0x1014772f57bb9742735191cd5dcfe4ebbc04156b6878a0a7c9824f32ffb66e85,
      0x58e1d5681b5b9e0074b0f9c8d2c68a069b920d74521e79765036d57666c5597,
      0x21e2335f3354bb7922ffcc2f38d3323dd9453ac49b55441452aeaca147711b2]) := by
  decide +kernel

/-- T-PR-3. -/
theorem test_line_add_vertical :
    outcome (stateWith [(0, [1, 2, 0x1800deef121f1e76426a00665e5c4479674322d4f75edadd46debd5cd992f6ed,
      0x198e9393920d483a7260bfb731fb5d25f1aa493335a9e71297e485b7aef312c2,
      0x12c85ea5db8c6deb4aab71808dcb408fe3d1e7690c43d37b4ce6cc0166fa7daa,
      0x90689d0585ff075ec9e99ad690c3395bc4b313370b38ef355acdadcd122975b,
      0x1800deef121f1e76426a00665e5c4479674322d4f75edadd46debd5cd992f6ed,
      0x198e9393920d483a7260bfb731fb5d25f1aa493335a9e71297e485b7aef312c2,
      0x1d9befcd05a5323e6da4d435f3b617cdb3af83285c2df711ef39c01571827f9d,
      0x275dc4a288d1afb3cbb1ac09187524c7db36395df7be3b99e673b13a075a65ec])]) 0x61140200 20 12 = some (0x2, [1, 0,
      0x18636f83cf1281b375e64550232513e4303e47bc7112efaff541ceb9feea065a,
      0x16d5badf4f2457ef45ef85ff4f85fb37a5d7215e32c7e37aa43c065f2989ea85, 0, 0, 0, 0, 0, 0, 0, 0]) := by
  decide +kernel

/-- T-PR-6. -/
theorem test_miller_infinity :
    outcome (stateWith [(2, [0x1800deef121f1e76426a00665e5c4479674322d4f75edadd46debd5cd992f6ed,
      0x198e9393920d483a7260bfb731fb5d25f1aa493335a9e71297e485b7aef312c2,
      0x12c85ea5db8c6deb4aab71808dcb408fe3d1e7690c43d37b4ce6cc0166fa7daa,
      0x90689d0585ff075ec9e99ad690c3395bc4b313370b38ef355acdadcd122975b])]) 0x62140002 20 12 = some (0x2, [1, 0,
      0, 0, 0, 0, 0, 0, 0, 0, 0, 0]) := by
  decide +kernel

/-- T-PR-15. -/
theorem test_miller_off :
    outcome (stateWith [(0, [1, 3, 0x1800deef121f1e76426a00665e5c4479674322d4f75edadd46debd5cd992f6ed,
      0x198e9393920d483a7260bfb731fb5d25f1aa493335a9e71297e485b7aef312c2,
      0x12c85ea5db8c6deb4aab71808dcb408fe3d1e7690c43d37b4ce6cc0166fa7daa,
      0x90689d0585ff075ec9e99ad690c3395bc4b313370b38ef355acdadcd122975b])]) 0x62140002 20 1 = some (0xa06, [0]) :=
      by
  decide +kernel

/-- T-PR-19. -/
theorem test_pair_noncanonical :
    outcome (stateWith [(0, [1, 0x30644e72e131a029b85045b68181585d97816a916871ca8d3c208c16d87cfd47,
      0x1800deef121f1e76426a00665e5c4479674322d4f75edadd46debd5cd992f6ed,
      0x198e9393920d483a7260bfb731fb5d25f1aa493335a9e71297e485b7aef312c2,
      0x12c85ea5db8c6deb4aab71808dcb408fe3d1e7690c43d37b4ce6cc0166fa7daa,
      0x90689d0585ff075ec9e99ad690c3395bc4b313370b38ef355acdadcd122975b])]) 0x64140002 20 1 = some (0x706, [0]) :=
      by
  decide +kernel

/-- T-PR-14. -/
theorem test_finexp_zero : outcome (stateWith []) 0x63201400 32 1 = some (0x806, [0]) := by
  decide +kernel

/-- T-CT-1, from the report of an earlier fault (T-CT-2). -/
theorem test_nop :
    outcome { State.reset with done := true, err := true, errCode := .pointNotOnCurve } 0x00000000 0 1 =
    some (0x2, [0]) := by decide +kernel

/-- T-CT-3. -/
theorem test_ldib : outcome (inputWith [(30, 2), (31, 1)] 0) 0x02050000 5 1 = some (0x2, [513]) := by decide +kernel

/-- T-CT-6. -/
theorem test_ldib_beyond : outcome State.reset 0x020003fc 0 1 = some (0x606, [0]) := by decide +kernel

/-- T-CT-7. -/
theorem test_illegal : outcome State.reset 0x03000000 0 1 = some (0x506, [0]) := by decide +kernel

/-- ACC after the step that runs the command word `c`. -/
def accAfter (s : State) (c : Nat) : Option Fp12 :=
  match step (s.withFetchWord 32 c) with
  | .next t => some t.acc
  | _ => none

/-- T-AC-3, its first command. -/
theorem test_acc_init : accAfter { State.reset with acc := Fp12.zero } 0x70000000 = some Fp12.one := by decide +kernel

/-- T-AC-1, and the same with another ACC. -/
theorem test_acc_check : outcome State.reset 0x72000000 0 1 = some (0xa, [0]) ∧
    outcome { State.reset with acc := Fp12.zero } 0x72000000 0 1 = some (0x2, [0]) := by decide +kernel

/-- T-AC-2. -/
theorem test_acc_store :
    outcome State.reset 0x73140000 20 12 = some (0x2, [1, 0, 0, 0, 0, 0, 0, 0, 0, 0, 0, 0]) := by decide +kernel

/-- T-AC-5: the off-curve point leaves ACC. -/
theorem test_acc_pair_off : outcome (stateWith [(8, [1, 3])]) 0x71000802 0 1 = some (0xa06, [0]) ∧
    accAfter { stateWith [(8, [1, 3])] with acc := Fp12.zero } 0x71000802 = some Fp12.zero := by decide +kernel

/-- T-AC-8 and T-AC-9. -/
theorem test_evaluate_length : outcome (inputWith [] 191) 0x01000000 0 1 = some (0x106, [0]) ∧
    accAfter { inputWith [] 191 with acc := Fp12.zero } 0x01000000 = some Fp12.zero ∧
    outcome (inputWith [] 0) 0x01000000 0 1 = some (0xa, [0]) ∧
    accAfter { inputWith [] 0 with acc := Fp12.zero } 0x01000000 = some Fp12.one := by decide +kernel

/-- R310, R312: the second element's G1 part is (0, 1), off the curve; ERRINFO names element 1, part G1. -/
theorem test_evaluate_first_error : (match step ((inputWith [(255, 1)] 384).withFetchWord 32 0x01000000) with
    | .next t => some (t.statusWord, t.errInfo)
    | _ => none) = some (0x306, 1) := by decide +kernel

/-- The power of 1_12 is 1_12, for the tests of the final exponentiation. -/
theorem binPow_one (k w : Nat) : binPow Fp12.mul Fp12.one Fp12.one k w = Fp12.one := by
  have h : Fp12.one.mul Fp12.one = Fp12.one := by decide +kernel
  induction w generalizing k with
  | zero => rfl
  | succ w ih => simp only [binPow, ih, h]; split <;> rfl

/-- T-PR-12. -/
theorem test_finexp_one : ∃ t, exec (.finexp 32 20) (stateWith [(20, [1])]) = .next t ∧ t.err = false ∧
    ∀ k < 12, t.word (32 + k) = if k = 0 then 1 else 0 := by
  have hl : fp12Layout.load ((stateWith [(20, [1])]).operand 20) = some Fp12.one := by decide +kernel
  have hf : finalExp Fp12.one = Fp12.one := binPow_one _ _
  have hz : Fp12.one ≠ fp12Layout.zero := by decide +kernel
  have hb : body (.finexp 32 20) (stateWith [(20, [1])]) = .ok { writes := [(32, storeFp12 Fp12.one)] } := by
    simp only [body, nonzeroCmd_eq, hl, hf, if_neg hz]; rfl
  rw [exec_eq_finish, hb]
  exact ⟨_, rfl, by decide +kernel, by decide +kernel⟩

/-- T-PR-7. -/
theorem test_pair_infinity : ∃ t, exec (.pair 20 0 12) (stateWith [(0, [1, 2])]) = .next t ∧ t.err = false ∧
    ∀ k < 12, t.word (20 + k) = if k = 0 then 1 else 0 := by
  have hl : pairOperands 0 12 (stateWith [(0, [1, 2])]) = .ok (.affine (Fp.ofNat 1) (Fp.ofNat 2), .infinity) := by
    decide +kernel
  have hp : pairing (.affine (Fp.ofNat 1) (Fp.ofNat 2)) .infinity = Fp12.one := binPow_one _ _
  have hb : body (.pair 20 0 12) (stateWith [(0, [1, 2])]) = .ok { writes := [(20, storeFp12 Fp12.one)] } := by
    rw [← hp]
    simp only [body, pairCmd, hl]; rfl
  rw [exec_eq_finish, hb]
  exact ⟨_, rfl, by decide +kernel, by decide +kernel⟩

/-- T-AC-6. -/
theorem test_acc_pair_infinity :
    ∃ t, exec (.accPair 10 2) { State.reset with acc := Fp12.zero } = .next t ∧ t.err = false ∧ t.acc = Fp12.zero :=
      by
  have hl : pairOperands 10 2 { State.reset with acc := Fp12.zero } = .ok (.infinity, .infinity) := by decide +kernel
  have hp : pairing .infinity .infinity = Fp12.one := binPow_one _ _
  have hb : body (.accPair 10 2) { State.reset with acc := Fp12.zero } = .ok { acc := some (Fp12.zero.mul Fp12.one) }
    := by
    rw [← hp]
    simp only [body, accPairCmd, hl]; rfl
  rw [exec_eq_finish, hb]
  exact ⟨_, rfl, by decide +kernel, by decide +kernel⟩

/-! ### Reset and the host's window -/

theorem test_reset_ibuf_wf : Memory.wf State.reset.ibuf = true := by decide

/-- R64: bus word 0 of a scratch word is its most significant one. -/
theorem test_scratch_window : (State.reset.hostAccess (.write .word 0x2020 1)).word 1 = 1 <<< 224 ∧
    ((stateWith [(255, [7])]).hostAccess (.read .word 0x3ffc)).readData = 7 := by decide +kernel

/-- R65: the byte at the lower offset is the more significant one. -/
theorem test_ibuf_window : (State.reset.hostAccess (.write .word 0x8000 0x01020004)).ibuf = [(0, 1), (1, 2), (3, 4)] ∧
    ((inputWith [(4, 1), (7, 9)] 0).hostAccess (.read .word 0x8004)).readData = 0x01000009 := by decide +kernel

/-- R66, R67, R404: a busy write and a misaligned write set HERR and nothing else. -/
theorem test_herr :
    (State.reset.accept 0).hostAccess (.write .word 0x010 5) = { State.reset.accept 0 with herr := true } ∧
    State.reset.hostAccess (.write .half 0x004 1) = { State.reset with herr := true } := ⟨rfl, rfl⟩

/-- R29, R451: SRST aborts a command in flight and keeps S outside its destination. -/
theorem test_soft_reset :
    (((stateWith [(1, [5])]).accept 0x10020101).hostAccess (.write .word 0x004 1)).busy = false ∧
    (((stateWith [(1, [5])]).accept 0x10020101).hostAccess (.write .word 0x004 1)).word 1 = 5 := by decide +kernel

/-- R30, R401: STATUS of a fault, read by the host after the completion. -/
theorem test_status_read :
    (match Sys2Proof.core.run 3 { stateWith [(0, [p])] with
        pending := [⟨.write .word 0x00C 0x10020001, false⟩, ⟨.read .word 0x008, false⟩] } with
    | .next t => some (State.readData t)
    | _ => none) = some 0x706 := by decide +kernel

/-! ### Witnesses: for each statement with hypotheses, a state and operands that meet them -/

/-- A condition on the next state, decided by running the command. -/
theorem exists_next {i : Instr} {s : State} (P : State → Prop) [DecidablePred P]
    (h : (match exec i s with | .next t => decide (P t) | _ => false) = true) : ∃ t, exec i s = .next t ∧ P t := by
  revert h
  cases exec i s with
  | next t => exact fun h => ⟨t, rfl, of_decide_eq_true h⟩
  | fault r => exact fun h => nomatch h
  | refused r => exact fun h => nomatch h

/-- The generators of R9 and other points of section 4.1 of 95_test_vectors.md. -/
def g1 : G1 := .affine (Fp.ofNat 1) (Fp.ofNat 2)
def g2 : G2 := .affine
  ⟨Fp.ofNat 0x1800deef121f1e76426a00665e5c4479674322d4f75edadd46debd5cd992f6ed, Fp.ofNat
    0x198e9393920d483a7260bfb731fb5d25f1aa493335a9e71297e485b7aef312c2⟩
  ⟨Fp.ofNat 0x12c85ea5db8c6deb4aab71808dcb408fe3d1e7690c43d37b4ce6cc0166fa7daa, Fp.ofNat
    0x090689d0585ff075ec9e99ad690c3395bc4b313370b38ef355acdadcd122975b⟩
def g2Double : G2 := .affine
  ⟨Fp.ofNat 0x27dc7234fd11d3e8c36c59277c3e6f149d5cd3cfa9a62aee49f8130962b4b3b9, Fp.ofNat
    0x203e205db4f19b37b60121b83a7333706db86431c6d835849957ed8c3928ad79⟩
  ⟨Fp.ofNat 0x04bb53b8977e5f92a0bc372742c4830944a59b4fe6b1c0466e2a6dad122b5d2e, Fp.ofNat
    0x195e8aa5b7827463722b8c153931579d3505566b4edf48d498e185f0509de152⟩
def offTwist : G2 := .affine ⟨Fp.ofNat 1, Fp.ofNat 0⟩ ⟨Fp.ofNat 1, Fp.ofNat 0⟩
/-- The y coordinate of NS, a point of E' outside G2 with x = 1. -/
def nsY : Fp2 := ⟨Fp.ofNat 0x07fb3d558dafafb6bf6dd326a5fefe0beca3f9ac3bd999a390d504fad34b0b8c, Fp.ofNat
  0x2351dcdda257b62181cbd745dfee16d5fdf4eb185bbcf33c20a0fe6eaa9cb4a3⟩

/-- T-PR-1, T-PR-2 and T-PR-3: the words that the statements list are those of the vectors. -/
theorem test_line_words :
    (dblLineWords g2 g1).map BitVec.toNat = [2, 0, 0, 0, 0, 0,
      0xce69bdf84ed6d6d204fe74db6b371d37e4615ab1b3d578c32d1af5736582972,
      0x1e23d69196b41dbf47d406f500e66ea29c8764b3fd262357407c3d96bb3ba710,
      0x3b7178c857630da7676d0000961488f8fbce03349a8dc1dd6e067932b6a7e0d,
      0x2b17c2b12c26fdd0e3520b9dfa601ead6f0bf9cd98c81278efe1e96b86397652, 0, 0] ∧
    (addLineWords g2Double g2 g1).map BitVec.toNat = [2, 0, 0, 0, 0, 0,
      0x2a0dd3f377bee86df8af1493203288c14f2e45f5b283a7d2e9789f0a85418bd4,
      0x27ca8354ad922aa6f422d09ed311ff1858d237c9992f9b668fa9e7c6a2dd7ba9,
      0x1121d4ca1c2cab3630af75417670de33dfa95eda9f287f4842d688d7afd9cd67,
      0x83ef274ba7913a58f14f6c3a2e2c9d74b347bfe7c4c55c27110f2c9a228f7d8, 0, 0] ∧
    (addLineWords g2 (g2.neg fp2Ops) g1).map BitVec.toNat = [1, 0,
      0x18636f83cf1281b375e64550232513e4303e47bc7112efaff541ceb9feea065a,
      0x16d5badf4f2457ef45ef85ff4f85fb37a5d7215e32c7e37aa43c065f2989ea85, 0, 0, 0, 0, 0, 0, 0, 0] := by decide +kernel

/-- The last twelve words hold 1 to 12. -/
def topWords : State := stateWith [(244, [1, 2, 3, 4, 5, 6, 7, 8, 9, 10, 11, 12])]

/-- The last twelve words hold 1_12. -/
def topOne : State := stateWith [(244, [1])]

/-- A command in flight and nothing pending. -/
def inFlight (c : BusWord) : State := State.reset.accept c

/-- The operands of the four arithmetic families at the last index that fits. -/
abbrev LastOperands (s : State) : Prop :=
  (InFile 255 1 ∧ CanonicalAt s 255 1) ∧ (InFile 254 2 ∧ CanonicalAt s 254 2) ∧
    (InFile 250 6 ∧ CanonicalAt s 250 6) ∧ InFile 244 12 ∧ CanonicalAt s 244 12

theorem witness_UnusedFieldsAreIgnored : decode 0x12010055 = .ok (.fpNeg 1 0) ∧
    (0x12010077 : BusWord) &&& usedBits (.fpNeg 1 0) = 0x12010055 &&& usedBits (.fpNeg 1 0) := by decide

theorem witness_ReservedOpcodesRaiseIllegalOpcode :
    (inFlight 0x03000000).coreTurn = true ∧ ([0x03, 0x0f, 0x16, 0x1f, 0x26, 0x2f, 0x36, 0x3f, 0x46, 0x4f, 0x55, 0x5f,
      0x65, 0x6f, 0x74, 0xff].all fun op => decide (ReservedOpcode op)) = true ∧
      ([0x02, 0x10, 0x15, 0x20, 0x25, 0x30, 0x35, 0x40, 0x45, 0x50, 0x54, 0x60, 0x64, 0x70, 0x73].all fun op =>
        decide (¬ReservedOpcode op)) = true := by
  decide +kernel

theorem witness_StepRunsTheDecodedCommand :
    (inFlight 0x10020001).coreTurn = true ∧ decode (inFlight 0x10020001).lastCmd = .ok (.fpAdd 2 0 1) := by
  decide +kernel

theorem witness_HostAccessesComeInTurn :
    (∃ s : State, s.pending = [⟨.read .word 0x008, false⟩] ∧ s.busy = false) ∧
      (∃ s : State, s.pending = [⟨.read .word 0x008, true⟩] ∧ s.busy = true) ∧
      State.reset.pending = [] ∧ State.reset.busy = false :=
  ⟨⟨{ State.reset with pending := [⟨.read .word 0x008, false⟩] }, rfl, rfl⟩,
    ⟨{ inFlight 0 with pending := [⟨.read .word 0x008, true⟩] }, rfl, rfl⟩, rfl, rfl⟩

theorem witness_CommandInFlightEnds : ({ inFlight 0 with pending := [⟨.read .word 0x008, true⟩] }).busy = true := rfl

theorem witness_FaultsArePrecise : ∃ t, exec (.fp2Add 255 0 0) topWords = .next t ∧ t.err = true :=
  exists_next _ (by decide +kernel)

theorem witness_CommandsWriteOnlyTheirDestinations :
    (∃ t, exec (.fp12Add 244 244 244) topWords = .next t ∧ t.err = false) ∧
      243 ∉ rangeWords (destRanges (.fp12Add 244 244 244)) ∧ 256 ∉ rangeWords (destRanges (.fp12Add 244 244 244)) ∧
      writesAcc (.fp12Add 244 244 244) = false :=
  ⟨exists_next _ (by decide +kernel), by decide +kernel⟩

theorem witness_ReportIsAsTheTablesList :
    (∃ t, exec .accCheck State.reset = .next t ∧ t.result = true) ∧
      (∃ t, exec (.fpInv 0 0) State.reset = .next t ∧ t.err = true) ∧
      ∃ t, exec .evaluate (inputWith [(255, 1)] 384) = .next t ∧ t.errInfo ≠ 0 :=
  ⟨exists_next _ (by decide +kernel), exists_next _ (by decide +kernel), exists_next _ (by decide +kernel)⟩

theorem witness_BadOperandExactlyForIllFormedCommands :
    (Instr.fp2Add 255 0 0).wellFormed State.reset.maxPairs = false ∧
      (Instr.lineDbl 0 3 20).wellFormed State.reset.maxPairs = false ∧
      (Instr.ldib 0 1020).wellFormed State.reset.maxPairs = false ∧
      (Instr.fp2Add 254 0 0).wellFormed State.reset.maxPairs = true ∧
      (∃ t, exec (.fp2Add 254 0 0) State.reset = .next t ∧ t.err = false) :=
  ⟨by decide +kernel, by decide +kernel, by decide +kernel, by decide +kernel, exists_next _ (by decide +kernel)⟩

theorem witness_NonCanonicalExactlyForLargeWords :
    (Instr.fpAdd 0 255 255).wellFormed State.reset.maxPairs = true ∧
      (∃ r ∈ canonicalRanges (.fpAdd 0 255 255), ∃ k < r.2, p ≤ ((stateWith [(255, [p])]).word (r.1 + k)).toNat) ∧
      ¬∃ r ∈ canonicalRanges (.fpAdd 0 255 255), ∃ k < r.2, p ≤ ((stateWith [(255, [p - 1])]).word (r.1 + k)).toNat :=
        by
  decide +kernel

theorem witness_InversionRefusesZero :
    (InFile 255 1 ∧ ∀ k < 1, State.reset.word (255 + k) = 0) ∧ (InFile 254 2 ∧ ∀ k < 2, State.reset.word (254 + k) =
      0) ∧
      (InFile 250 6 ∧ ∀ k < 6, State.reset.word (250 + k) = 0) ∧
      InFile 244 12 ∧ ∀ k < 12, State.reset.word (244 + k) = 0 := by decide +kernel

/-- Points for the point check: P at 250 off E, P at 252 on E, T at 240 off E', T at 236 and Q at 244 on E'. -/
def points : State := stateWith
  [(236, storeG2 g2 |>.map BitVec.toNat), (240, [1, 0, 1, 0]), (244, storeG2 g2 |>.map BitVec.toNat), (250, [1, 3, 1,
    2])]

theorem witness_OffCurveOperandsAreRefused :
    ((Instr.lineDbl 12 236 250).wellFormed points.maxPairs = true ∧ loadG2 (points.operand 236) = some g2 ∧
        loadG1 (points.operand 250) = some (.affine (Fp.ofNat 1) (Fp.ofNat 3)) ∧
        isValidG1 (.affine (Fp.ofNat 1) (Fp.ofNat 3)) = false) ∧
      ((Instr.lineDbl 12 240 252).wellFormed points.maxPairs = true ∧ loadG2 (points.operand 240) = some offTwist ∧
        loadG1 (points.operand 252) = some g1 ∧ isValidG2 offTwist = false) ∧
      ((Instr.lineAdd 12 236 252).wellFormed points.maxPairs = true ∧ loadG2 (points.operand 236) = some g2 ∧
        loadG2 (fun k => points.operand 236 (k + 4)) = some offTwist ∧ loadG1 (points.operand 252) = some g1) ∧
      ((Instr.lineAdd 12 240 252).wellFormed points.maxPairs = true ∧ loadG2 (points.operand 240) = some offTwist ∧
        loadG2 (fun k => points.operand 240 (k + 4)) = some g2) ∧
      (InFile 244 12 ∧ PairAt points 250 236 (.affine (Fp.ofNat 1) (Fp.ofNat 3)) g2) ∧
      PairAt points 252 240 g1 offTwist := by decide +kernel

/-- A state with a command in flight satisfies the invariant, and steps. -/
theorem witness_StepKeepsTheInvariant : (inFlight 0).Inv ∧ ∃ t, step (inFlight 0) = .next t :=
  ⟨⟨by decide +kernel, by decide +kernel, by decide +kernel, rfl, by decide, by decide, by decide, by decide,
    fun _ => ⟨rfl, rfl, rfl, rfl, rfl⟩, by decide, by decide +kernel, fun h => absurd rfl h⟩, _, rfl⟩

theorem witness_IdAndCapsNeverChange : ∃ t, step State.reset = .next t := ⟨_, rfl⟩

theorem witness_SoftResetIsTheSpecs : (1 : BusWord).getLsbD 0 = true ∧ (inFlight 0x10020001).busy = true ∧
    1 ∉ destWords (inFlight 0x10020001).lastCmd ∧ State.reset.busy = false := by decide +kernel

theorem witness_CtrlWriteActsByItsBits : (0xf : BusWord).getLsbD 0 = true ∧ (0xe : BusWord).getLsbD 0 = false := by
  decide

theorem witness_AddIsWordwiseModP : LastOperands topWords := by decide +kernel
theorem witness_SubIsWordwiseModP : LastOperands topWords := by decide +kernel
theorem witness_NegIsWordwiseModP : LastOperands topWords := by decide +kernel
theorem witness_EqComparesWordByWord : LastOperands topWords := by decide +kernel

theorem witness_FpMulAndInvWriteTheResidue : CanonicalAt topWords 255 1 ∧ (topWords.word 255).toNat ≠ 0 := by
  decide +kernel

theorem witness_Fp2MulWritesTheProduct : InFile 254 2 ∧ CanonicalAt topWords 254 2 := by decide +kernel

theorem witness_TowerMulWritesTheProduct :
    (InFile 250 6 ∧ loadFp6 (topOne.operand 250) = some Fp6.zero ∧ loadFp6 (topOne.operand 244) = some Fp6.one) ∧
      InFile 244 12 ∧ loadFp12 (topOne.operand 244) = some Fp12.one := by decide +kernel

theorem witness_TowerInvWritesTheInverse :
    (InFile 254 2 ∧ loadFp2 ((stateWith [(254, [1])]).operand 254) = some Fp2.one ∧ Fp2.one ≠ Fp2.zero) ∧
      (InFile 250 6 ∧ loadFp6 ((stateWith [(250, [1])]).operand 250) = some Fp6.one ∧ Fp6.one ≠ Fp6.zero) ∧
      InFile 244 12 ∧ loadFp12 (topOne.operand 244) = some Fp12.one ∧ Fp12.one ≠ Fp12.zero := by decide +kernel

theorem witness_FpInverseIsUnique :
    Fp.ofNat 2 ≠ Fp.zero ∧ Fp.ofNat 2 * Fp.ofNat ((p + 1) / 2) = Fp.one := by decide +kernel

theorem witness_Fp2InverseIsUnique : (⟨Fp.zero, Fp.one⟩ : Fp2) ≠ Fp2.zero ∧
    (⟨Fp.zero, Fp.one⟩ : Fp2).mul ⟨Fp.zero, Fp.ofNat (p - 1)⟩ = Fp2.one := by decide +kernel

/-- T-F6-5 and T-F6-6: the inverse of v. -/
theorem witness_Fp6InverseIsUnique : (⟨Fp2.zero, Fp2.one, Fp2.zero⟩ : Fp6) ≠ Fp6.zero ∧
    (⟨Fp2.zero, Fp2.one, Fp2.zero⟩ : Fp6).mul ⟨Fp2.zero, Fp2.zero,
      ⟨Fp.ofNat 0x2e9f1362305ea3ab50ca36acb4f65e7fa1928902b8ea81948e3855034733bbd1,
        Fp.ofNat 0x20753adca9c6bfb81499be5e509e8f8ff21b7c8d3cb039cf1ef69c66bce9b020⟩⟩ = Fp6.one := by decide +kernel

theorem witness_Fp12InverseIsUnique : (⟨Fp6.one.neg, Fp6.zero⟩ : Fp12) ≠ Fp12.zero ∧
    (⟨Fp6.one.neg, Fp6.zero⟩ : Fp12).mul ⟨Fp6.one.neg, Fp6.zero⟩ = Fp12.one := by decide +kernel

theorem witness_PairingProductIgnoresOrder :
    List.Perm [(g1, g2), (g1, .infinity)] [(g1, Point.infinity), (g1, g2)] := .swap ..

theorem witness_DecG1DecodesInOrder :
    InFile 254 2 ∧ (let s := stateWith [(250, [p, 2, 1, 3, 1, 2])]
      p ≤ (s.word 250).toNat ∧ (s.word 252).toNat = 1 ∧ (s.word 253).toNat = 3 ∧ 3 * 3 % p ≠ (1 * 1 * 1 + 3) % p ∧
        (s.word 254).toNat = 1 ∧ (s.word 255).toNat = 2 ∧ 2 * 2 % p = (1 * 1 * 1 + 3) % p) ∧
      (State.reset.word 254).toNat = 0 ∧ (State.reset.word 255).toNat = 0 := by decide +kernel

theorem witness_DecG2DecodesInOrder :
    InFile 252 4 ∧ (∃ k < 4, p ≤ ((stateWith [(255, [p])]).word (252 + k)).toNat) ∧
      (let s := stateWith [(252, [0, 1, 0, 1])]
       let x : Fp2 := ⟨Fp.ofNat 1, Fp.ofNat 0⟩
       (s.word 252).toNat = x.c1.val ∧ (s.word 253).toNat = x.c0.val ∧ (s.word 254).toNat = x.c1.val ∧
         (s.word 255).toNat = x.c0.val ∧ x ≠ Fp2.zero ∧ onTwist x x = false) ∧
      (∀ k < 4, State.reset.word (252 + k) = 0) := by decide +kernel

/-- R228, T-CV-11: the point NS is on E' and outside G2. -/
theorem witness_DecG2DecodesInOrder_subgroup :
    onTwist ⟨Fp.ofNat 1, Fp.ofNat 0⟩ nsY = true ∧ smulOrder (.affine ⟨Fp.ofNat 1, Fp.ofNat 0⟩ nsY) ≠ .infinity := by
  decide +kernel

theorem witness_ChecksReportTheirPredicates : CanonicalAt topWords 254 2 ∧ InFile 252 4 ∧
    loadFp2 ((stateWith [(252, [1, 2, 3, 4])]).operand 252) = some ⟨Fp.ofNat 1, Fp.ofNat 2⟩ ∧
    loadFp2 (fun k => (stateWith [(252, [1, 2, 3, 4])]).operand 252 (k + 2)) = some ⟨Fp.ofNat 3, Fp.ofNat 4⟩ := by
  decide +kernel

theorem witness_SmulOrderIsTheRepeatedSum : isValidG2 g2 = true ∧ isValidG2 .infinity = true := by decide +kernel

/-- T-CV-22: the generator is in G2. -/
theorem witness_DecodersInvertTheWireEncoding : isValidG1 g1 = true ∧ inG2 g2 = true := by decide +kernel

/-- D and T side by side at the end of the file, P below them. -/
def linePoints : State := stateWith
  [(236, [1, 2]), (240, storeG2 g2 |>.map BitVec.toNat), (244, storeG2 g2Double |>.map BitVec.toNat)]

theorem witness_LineCommandsWriteLineAndPoint :
    (Instr.lineDbl 244 240 236).wellFormed linePoints.maxPairs = true ∧
      (Instr.lineAdd 244 240 236).wellFormed linePoints.maxPairs = true ∧
      loadG2 (linePoints.operand 240) = some g2 ∧
      loadG2 (fun k => linePoints.operand 240 (k + 4)) = some g2Double ∧ loadG1 (linePoints.operand 236) = some g1 ∧
      isValidG2 g2 = true ∧ isValidG2 g2Double = true ∧ isValidG1 g1 = true := by decide +kernel

theorem witness_LineCommandsWriteLineAndPoint_values : g1 ≠ .infinity := by decide +kernel

theorem witness_LineStepsFollowTheGroupLaw : isValidG2 g2 = true ∧ isValidG2 g2Double = true := by decide +kernel

/-- P at 254 and Q at 250; and P at 250 and Q, the point O, at 252. -/
theorem witness_PairingCommandsWriteTheirValue :
    (InFile 244 12 ∧ PairAt (stateWith [(250, storeG2 g2 |>.map BitVec.toNat), (254, [1, 2])]) 254 250 g1 g2 ∧
        isValidG1 g1 = true ∧ isValidG2 g2 = true) ∧
      PairAt (stateWith [(250, [1, 2])]) 250 252 g1 .infinity ∧
      InFile 244 12 ∧ loadFp12 (topOne.operand 244) = some Fp12.one ∧ Fp12.one ≠ Fp12.zero := by decide +kernel

/-- The value and the point after `k` passes of R264, for the witness of the Miller loop. -/
def millerTrace (P : G1) (Q : G2) : Nat → Fp12 × G2
  | 0 => (Fp12.one, Q)
  | k + 1 => millerStep P Q (Nat.testBit 0x19d797039be763ba8 (63 - k)) (millerTrace P Q k).1 (millerTrace P Q k).2

theorem witness_PairingCommandsWriteTheirValue_passes : g1 ≠ .infinity ∧
    MillerPasses g1 g2 (fun k => (millerTrace g1 g2 k).1) fun k => (millerTrace g1 g2 k).2 :=
  ⟨by decide +kernel, rfl, rfl, fun k _ h => by simp [millerTrace, millerStep, h],
    fun k _ h => by simp [millerTrace, millerStep, h]⟩

theorem witness_PairingWithInfinityIsOne : (Point.infinity : G1) = .infinity ∨ g2 = .infinity := .inl rfl

theorem witness_NopAndLdibComplete : 32 * (1019 : BitVec 16).toNat + 32 ≤ State.reset.ibufBytes := by decide +kernel

theorem witness_AccumulatorCommandsComplete :
    (PairAt (stateWith [(250, storeG2 g2 |>.map BitVec.toNat), (254, [1, 2])]) 254 250 g1 g2 ∧
      isValidG1 g1 = true ∧ isValidG2 g2 = true) ∧ InFile 244 12 := by decide +kernel

/-- A block with MAX_PAIRS = `n`, a buffer and a length. -/
def blockWith (n : Nat) (cells : List Host.Cell) (len : BusWord) : State :=
  { inputWith cells len with caps := capsValue n }

/-- The whole buffer of a block with two elements, the first (G1gen, O), the second (O, O). -/
theorem witness_EvaluateChecksTheProduct :
    (blockWith 2 [(31, 1), (63, 2)] 384).len.toNat = 192 * ([(g1, .infinity), (.infinity, .infinity)] : List (G1 ×
      G2)).length ∧
      (blockWith 2 [(31, 1), (63, 2)] 384).len.toNat ≤ (blockWith 2 [(31, 1), (63, 2)] 384).ibufBytes ∧
      elementG1 (blockWith 2 [(31, 1), (63, 2)] 384) 0 = .ok g1 ∧
      elementG2 (blockWith 2 [(31, 1), (63, 2)] 384) 0 = .ok .infinity ∧
      elementG1 (blockWith 2 [(31, 1), (63, 2)] 384) 1 = .ok .infinity ∧
      elementG2 (blockWith 2 [(31, 1), (63, 2)] 384) 1 = .ok .infinity := by decide +kernel

theorem witness_EvaluateChecksTheLength :
    (inputWith [] 191).len.toNat % 192 ≠ 0 ∧ (inputWith [] 0).len.toNat = 0 ∧
      (inputWith [] 32832).len.toNat % 192 = 0 ∧ (inputWith [] 32832).ibufBytes < (inputWith [] 32832).len.toNat ∧
      (inputWith [] 32832).ibufBytes + 192 = (inputWith [] 32832).len.toNat := by decide +kernel

/-- The last element of a full buffer of two: its G1 part (0, 1) is off E, and in the second state its G2 part has
x = 0, y = (1, 0), off E'. -/
theorem witness_EvaluateReportsTheFirstError :
    ((blockWith 2 [(255, 1)] 384).len.toNat % 192 = 0 ∧
        (blockWith 2 [(255, 1)] 384).len.toNat ≤ (blockWith 2 [(255, 1)] 384).ibufBytes ∧
        192 * 1 < (blockWith 2 [(255, 1)] 384).len.toNat ∧ elementG1 (blockWith 2 [(255, 1)] 384) 0 = .ok .infinity ∧
        elementG2 (blockWith 2 [(255, 1)] 384) 0 = .ok .infinity ∧
        elementG1 (blockWith 2 [(255, 1)] 384) 1 = .error .pointNotOnCurve) ∧
      elementG1 (blockWith 2 [(383, 1)] 384) 0 = .ok .infinity ∧
      elementG2 (blockWith 2 [(383, 1)] 384) 0 = .ok .infinity ∧
      elementG1 (blockWith 2 [(383, 1)] 384) 1 = .ok .infinity ∧
      elementG2 (blockWith 2 [(383, 1)] 384) 1 = .error .pointNotOnCurve := by decide +kernel

theorem witness_CmdWriteAcceptsTheCommand : State.reset.busy = false := rfl

theorem witness_RegistersReadAsLaidOut : State.reset.busy = false := rfl

theorem witness_ScratchWindowIsBigEndian : 255 < 256 ∧ 7 < 8 ∧ State.reset.busy = false := by decide

theorem witness_InputWindowIsBigEndian :
    (let s := inputWith [(3, 1)] 0
     Memory.wf s.ibuf = true ∧ s.ibufBytes ≤ 32768 ∧ 32636 % 4 = 0 ∧ 32636 < s.ibufBytes ∧ s.busy = false) := by
  decide +kernel

theorem witness_BusyWritesAreDropped :
    (inFlight 0).busy = true ∧
      ([0x00c, 0x010, 0x2000, 0x3ffc, 0x8000, 0xff7c].all fun off =>
        decide (off % 4 = 0 ∧ BusyTarget (inFlight 0) off)) = true ∧
      ((inFlight 0).hostAccess (.write .word 0x004 8)).busy = true := by decide +kernel

theorem witness_ReservedAndMisalignedAccesses :
    ([0x01c, 0x1ffc, 0x4000, 0x7ffc, 0xff80, 0xfffc].all fun off =>
        decide (off % 4 = 0 ∧ ReservedOffset State.reset off)) = true ∧
      AccessSize.half ≠ .word ∧ (0x001 : BitVec 16).toNat % 4 ≠ 0 ∧ (0xffff : BitVec 16).toNat % 4 ≠ 0 := by
  decide +kernel

theorem witness_ReadsHaveNoSideEffect :
    (0xfffc : BitVec 16).toNat % 4 = 0 ∧ (0 : BitVec 16).toNat % 4 = 0 := by decide

/-- A completion, an idle step, an error by a read, one by a write while BUSY = 1, a clear, and an access that keeps
HERR. -/
theorem witness_HerrHasExactlyItsCauses :
    (∃ t, step (inFlight 0) = .next t ∧ (inFlight 0).coreTurn = true) ∧
      (∃ t, step State.reset = .next t ∧ State.reset.pending = []) ∧
      (∃ s t : State, step s = .next t ∧ s.coreTurn = false ∧ s.pending = [⟨.read .half 0x004, false⟩]) ∧
      (∃ s t : State, step s = .next t ∧ s.coreTurn = false ∧ s.pending = [⟨.write .word 0x00C 0, true⟩] ∧
        AccessError s (.write .word 0x00C 0)) ∧
      (∃ s t : State, step s = .next t ∧ s.coreTurn = false ∧ s.pending = [⟨.write .word 0x004 2, false⟩] ∧
        s.herr = true ∧ ClearsHerr (.write .word 0x004 2)) ∧
      ∃ s t : State, step s = .next t ∧ s.coreTurn = false ∧ s.pending = [⟨.write .word 0x004 4, false⟩] ∧
        s.herr = true ∧ ¬ClearsHerr (.write .word 0x004 4) :=
  ⟨⟨_, rfl, rfl⟩, ⟨_, rfl, rfl⟩, ⟨{ State.reset with pending := [⟨.read .half 0x004, false⟩] }, _, rfl, rfl, rfl⟩,
    ⟨{ inFlight 0 with pending := [⟨.write .word 0x00C 0, true⟩] }, _, rfl, rfl, rfl, .inr ⟨rfl, .inl rfl⟩⟩,
    ⟨{ State.reset with herr := true, pending := [⟨.write .word 0x004 2, false⟩] }, _, rfl, rfl, rfl, rfl,
      rfl, rfl, .inr (by decide)⟩,
    { State.reset with herr := true, pending := [⟨.write .word 0x004 4, false⟩] }, _, rfl, rfl, rfl, rfl,
    fun h => h.2.2.elim (by decide) (by decide)⟩

end Sys2Proof.Tests
end

section
/-! SUPPORT. What the fault of a command can report: the bodies raise only what the table of 60_exceptions.md R401 lists,
with ERRINFO 0 but for a decode error of EVALUATE (R312, R400). -/

namespace Sys2Proof.Machine

/-! ### The faults of a body -/

/-- Every fault that the body raises satisfies `P`. -/
def Cmd.FaultsIn {α : Type} (P : Raise → Prop) (c : Cmd α) : Prop := ∀ r, c = .error r → P r

namespace Cmd.FaultsIn

variable {α β : Type} {P : Raise → Prop}

theorem ok (v : α) : Cmd.FaultsIn P (.ok v) := fun _ h => nomatch h

theorem error {r : Raise} (h : P r) : Cmd.FaultsIn P (.error r : Cmd α) := by
  rintro _ ⟨⟩; exact h

/-- A sequence raises what its first part raises, or what its rest raises. -/
theorem bind {c : Cmd α} {f : α → Cmd β} (hc : Cmd.FaultsIn P c) (hf : ∀ v, Cmd.FaultsIn P (f v)) :
    Cmd.FaultsIn P (c >>= f) := by
  cases c with
  | ok v => exact hf v
  | error e => exact error (hc e rfl)

theorem ite {q : Prop} [Decidable q] {c c' : Cmd α} (hc : q → Cmd.FaultsIn P c) (hc' : ¬q → Cmd.FaultsIn P c') :
    Cmd.FaultsIn P (if q then c else c') := by
  split
  · exact hc ‹_›
  · exact hc' ‹_›

end Cmd.FaultsIn

/-! ### The checks -/

section Checks

variable {α : Type} {P : Raise → Prop}

theorem checkRange_faults (hb : P ⟨.badOperand, 0⟩) (x : Idx) (w : Nat) : Cmd.FaultsIn P (checkRange x w) :=
  .ite (fun _ => .ok ()) fun _ => .error hb

theorem checkLineOverlap_faults (hb : P ⟨.badOperand, 0⟩) (d a : Idx) : Cmd.FaultsIn P (checkLineOverlap d a) :=
  .ite (fun _ => .ok ()) fun _ => .error hb

theorem canonical_faults (hn : P ⟨.nonCanonicalOperand, 0⟩) (v : Option α) : Cmd.FaultsIn P (canonical v) := by
  cases v with
  | some v => exact .ok v
  | none => exact .error hn

theorem checkPoint_faults (hp : P ⟨.invalidOperandPoint, 0⟩) (valid : Bool) : Cmd.FaultsIn P (checkPoint valid) :=
  .ite (fun _ => .ok ()) fun _ => .error hp

theorem decoded_faults {info : BusWord} {c : Except ErrCode α} (h : ∀ e, c = .error e → P ⟨e, info⟩) :
    Cmd.FaultsIn P (decoded info c) := by
  cases c with
  | ok v => exact .ok v
  | error e => exact .error (h e rfl)

end Checks

/-! ### The command shapes -/

section Shapes

variable {α : Type} {P : Raise → Prop}

theorem binaryCmd_faults (hb : P ⟨.badOperand, 0⟩) (hn : P ⟨.nonCanonicalOperand, 0⟩) {l : Layout α} {f : α → α → α}
    {d a b : Idx} {s : State} : Cmd.FaultsIn P (binaryCmd l f d a b s) :=
  .bind (checkRange_faults hb _ _) fun _ => .bind (checkRange_faults hb _ _) fun _ =>
    .bind (checkRange_faults hb _ _) fun _ => .bind (canonical_faults hn _) fun _ =>
    .bind (canonical_faults hn _) fun _ => .ok _

theorem unaryCmd_faults (hb : P ⟨.badOperand, 0⟩) (hn : P ⟨.nonCanonicalOperand, 0⟩) {l : Layout α} {f : α → α}
    {d a : Idx} {s : State} : Cmd.FaultsIn P (unaryCmd l f d a s) :=
  .bind (checkRange_faults hb _ _) fun _ => .bind (checkRange_faults hb _ _) fun _ =>
    .bind (canonical_faults hn _) fun _ => .ok _

theorem nonzeroCmd_faults [DecidableEq α] (hb : P ⟨.badOperand, 0⟩) (hn : P ⟨.nonCanonicalOperand, 0⟩)
    (hz : P ⟨.inverseOfZero, 0⟩) {l : Layout α} {f : α → α} {d a : Idx} {s : State} :
    Cmd.FaultsIn P (nonzeroCmd l f d a s) :=
  .bind (checkRange_faults hb _ _) fun _ => .bind (checkRange_faults hb _ _) fun _ =>
    .bind (canonical_faults hn _) fun _ => .ite (fun _ => .error hz) fun _ => .ok _

theorem equalCmd_faults [DecidableEq α] (hb : P ⟨.badOperand, 0⟩) (hn : P ⟨.nonCanonicalOperand, 0⟩) {l : Layout α}
    {a b : Idx} {s : State} : Cmd.FaultsIn P (equalCmd l a b s) :=
  .bind (checkRange_faults hb _ _) fun _ => .bind (checkRange_faults hb _ _) fun _ =>
    .bind (canonical_faults hn _) fun _ => .bind (canonical_faults hn _) fun _ => .ok _

theorem g1ChkCmd_faults (hb : P ⟨.badOperand, 0⟩) (hn : P ⟨.nonCanonicalOperand, 0⟩) {a : Idx} {s : State} :
    Cmd.FaultsIn P (g1ChkCmd a s) :=
  .bind (checkRange_faults hb _ _) fun _ => .bind (canonical_faults hn _) fun _ => .ok _

theorem g2TestCmd_faults (hb : P ⟨.badOperand, 0⟩) (hn : P ⟨.nonCanonicalOperand, 0⟩) {test : G2 → Bool} {a : Idx}
    {s : State} : Cmd.FaultsIn P (g2TestCmd test a s) :=
  .bind (checkRange_faults hb _ _) fun _ => .bind (canonical_faults hn _) fun _ => .ok _

theorem pairOperands_faults (hn : P ⟨.nonCanonicalOperand, 0⟩) (hp : P ⟨.invalidOperandPoint, 0⟩) {a b : Idx}
    {s : State} : Cmd.FaultsIn P (pairOperands a b s) :=
  .bind (canonical_faults hn _) fun _ => .bind (canonical_faults hn _) fun _ =>
    .bind (checkPoint_faults hp _) fun _ => .bind (checkPoint_faults hp _) fun _ => .ok _

theorem pairCmd_faults (hb : P ⟨.badOperand, 0⟩) (hn : P ⟨.nonCanonicalOperand, 0⟩) (hp : P ⟨.invalidOperandPoint, 0⟩)
    {f : G1 → G2 → Fp12} {d a b : Idx} {s : State} : Cmd.FaultsIn P (pairCmd f d a b s) :=
  .bind (checkRange_faults hb _ _) fun _ => .bind (checkRange_faults hb _ _) fun _ =>
    .bind (checkRange_faults hb _ _) fun _ => .bind (pairOperands_faults hn hp) fun _ => .ok _

theorem accPairCmd_faults (hb : P ⟨.badOperand, 0⟩) (hn : P ⟨.nonCanonicalOperand, 0⟩)
    (hp : P ⟨.invalidOperandPoint, 0⟩) {a b : Idx} {s : State} : Cmd.FaultsIn P (accPairCmd a b s) :=
  .bind (checkRange_faults hb _ _) fun _ => .bind (checkRange_faults hb _ _) fun _ =>
    .bind (pairOperands_faults hn hp) fun _ => .ok _

theorem accStoreCmd_faults (hb : P ⟨.badOperand, 0⟩) {d : Idx} {s : State} : Cmd.FaultsIn P (accStoreCmd d s) :=
  .bind (checkRange_faults hb _ _) fun _ => .ok _

theorem ldibCmd_faults (hb : P ⟨.badOperand, 0⟩) {d : Idx} {k : BitVec 16} {s : State} :
    Cmd.FaultsIn P (ldibCmd d k s) :=
  .bind (checkRange_faults hb _ _) fun _ => .ite (fun _ => .ok _) fun _ => .error hb

theorem lineDblCmd_faults (hb : P ⟨.badOperand, 0⟩) (hn : P ⟨.nonCanonicalOperand, 0⟩)
    (hp : P ⟨.invalidOperandPoint, 0⟩) {d a b : Idx} {s : State} : Cmd.FaultsIn P (lineDblCmd d a b s) :=
  .bind (checkRange_faults hb _ _) fun _ => .bind (checkRange_faults hb _ _) fun _ =>
    .bind (checkRange_faults hb _ _) fun _ => .bind (checkLineOverlap_faults hb _ _) fun _ =>
    .bind (canonical_faults hn _) fun _ => .bind (canonical_faults hn _) fun _ =>
    .bind (checkPoint_faults hp _) fun _ => .bind (checkPoint_faults hp _) fun _ => .ok _

theorem lineAddCmd_faults (hb : P ⟨.badOperand, 0⟩) (hn : P ⟨.nonCanonicalOperand, 0⟩)
    (hp : P ⟨.invalidOperandPoint, 0⟩) {d a b : Idx} {s : State} : Cmd.FaultsIn P (lineAddCmd d a b s) :=
  .bind (checkRange_faults hb _ _) fun _ => .bind (checkRange_faults hb _ _) fun _ =>
    .bind (checkRange_faults hb _ _) fun _ => .bind (checkLineOverlap_faults hb _ _) fun _ =>
    .bind (canonical_faults hn _) fun _ => .bind (canonical_faults hn _) fun _ =>
    .bind (canonical_faults hn _) fun _ => .bind (checkPoint_faults hp _) fun _ =>
    .bind (checkPoint_faults hp _) fun _ => .bind (checkPoint_faults hp _) fun _ => .ok _

end Shapes

/-! ### The decoders and EVALUATE -/

/-- The errors of the decoders (42_curve.md R227, R228). -/
abbrev DecodeError (e : ErrCode) : Prop := e = .outOfRangeField ∨ e = .pointNotOnCurve ∨ e = .invalidSubgroup

theorem decodeG1_error {rx ry : Word} {e : ErrCode} (h : decodeG1 rx ry = .error e) :
    e = .outOfRangeField ∨ e = .pointNotOnCurve := by
  simp only [decodeG1] at h
  split at h
  · split_ifs at h
    exact .inr (by simpa using h.symm)
  · exact .inl (by simpa using h.symm)

theorem decodeG2_error {r0 r1 r2 r3 : Word} {e : ErrCode} (h : decodeG2 r0 r1 r2 r3 = .error e) : DecodeError e := by
  simp only [decodeG2] at h
  split at h
  · split_ifs at h
    · exact .inr (.inr (by simpa using h.symm))
    · exact .inr (.inl (by simpa using h.symm))
  · exact .inl (by simpa using h.symm)

theorem decG1Cmd_faults {P : Raise → Prop} (hb : P ⟨.badOperand, 0⟩) (hr : P ⟨.outOfRangeField, 0⟩)
    (hc : P ⟨.pointNotOnCurve, 0⟩) {d a : Idx} {s : State} : Cmd.FaultsIn P (decG1Cmd d a s) :=
  .bind (checkRange_faults hb _ _) fun _ => .bind (checkRange_faults hb _ _) fun _ =>
    .bind (decoded_faults fun e he => by rcases decodeG1_error he with rfl | rfl <;> assumption) fun _ => .ok _

theorem decG2Cmd_faults {P : Raise → Prop} (hb : P ⟨.badOperand, 0⟩) (hr : P ⟨.outOfRangeField, 0⟩)
    (hc : P ⟨.pointNotOnCurve, 0⟩) (hg : P ⟨.invalidSubgroup, 0⟩) {d a : Idx} {s : State} :
    Cmd.FaultsIn P (decG2Cmd d a s) :=
  .bind (checkRange_faults hb _ _) fun _ => .bind (checkRange_faults hb _ _) fun _ =>
    .bind (decoded_faults fun e he => by rcases decodeG2_error he with rfl | rfl | rfl <;> assumption) fun _ => .ok _

/-- The fault names an element from `lo` on and below `hi` as the one whose decoding failed (R310, R312). -/
def NamesElement (lo hi : Nat) (r : Raise) : Prop :=
  DecodeError r.code ∧ ∃ k part, lo ≤ k ∧ k < hi ∧ r.info = errInfoWord k part

theorem NamesElement.mono {lo lo' hi hi' : Nat} {r : Raise} (h : NamesElement lo hi r) (hlo : lo' ≤ lo)
    (hhi : hi ≤ hi') : NamesElement lo' hi' r := by
  obtain ⟨hc, k, part, hk, hk', hi⟩ := h
  exact ⟨hc, k, part, by omega, by omega, hi⟩

theorem decodeElement_faults (s : State) (i : Nat) : Cmd.FaultsIn (NamesElement i (i + 1)) (decodeElement s i) :=
  .bind (decoded_faults fun _ he =>
      ⟨(decodeG1_error he).imp_right .inl, i, false, le_rfl, Nat.lt_succ_self i, rfl⟩) fun _ =>
    .bind (decoded_faults fun _ he => ⟨decodeG2_error he, i, true, le_rfl, Nat.lt_succ_self i, rfl⟩) fun _ => .ok _

/-- A failing decode phase names one of the elements it was given. -/
theorem decodeElements_faults (s : State) (i n : Nat) :
    Cmd.FaultsIn (NamesElement i (i + n)) (decodeElements s i n) := by
  induction n generalizing i with
  | zero => exact .ok []
  | succ n ih =>
    have first : Cmd.FaultsIn (NamesElement i (i + (n + 1))) (decodeElement s i) := fun r hr =>
      (decodeElement_faults s i r hr).mono le_rfl (by omega)
    have later : Cmd.FaultsIn (NamesElement i (i + (n + 1))) (decodeElements s (i + 1) n) := fun r hr =>
      (ih (i + 1) r hr).mono (by omega) (by omega)
    exact .bind first fun _ => .bind later fun _ => .ok _

/-- EVALUATE raises a length error, the capacity error, or a decode error that names an element of an input that fits
the buffer. -/
theorem evaluateCmd_faults {P : Raise → Prop} (s : State) (hl : P ⟨.invalidInputLength, 0⟩)
    (hc : P ⟨.capacityExceeded, 0⟩)
    (he : s.len.toNat ≤ s.ibufBytes → ∀ r, NamesElement 0 (s.len.toNat / 192) r → P r) :
    Cmd.FaultsIn P (evaluateCmd s) := by
  refine .ite (fun _ => .error hl) fun _ => .ite (fun _ => .ok _) fun _ => .ite (fun _ => .error hc) fun hlen => ?_
  refine .bind (fun r hr => he (by omega) r ?_) fun _ => .ok _
  exact (decodeElements_faults s 0 _ r hr).mono le_rfl (by omega)

/-! ### Every command -/

/-- What the fault `r` of command `i` reports: a code that R401 gives the command, and an ERRINFO that is 0 or, for a
decode error of EVALUATE, names an element of the input (R312, R400). -/
structure FaultReport (i : Instr) (s : State) (r : Raise) : Prop where
  code : mayRaise i r.code = true
  info : r.info = 0 ∨
    i = .evaluate ∧ s.len.toNat ≤ s.ibufBytes ∧ NamesElement 0 (s.len.toNat / 192) r

/-- A fault without an element reports nothing but a code of the table. -/
theorem FaultReport.plain {i : Instr} {s : State} {e : ErrCode} (h : mayRaise i e = true) : FaultReport i s ⟨e, 0⟩ :=
  ⟨h, .inl rfl⟩

theorem FaultReport.ofElement {s : State} {r : Raise} (hlen : s.len.toNat ≤ s.ibufBytes)
    (h : NamesElement 0 (s.len.toNat / 192) r) : FaultReport .evaluate s r := by
  refine ⟨?_, .inr ⟨rfl, hlen, h⟩⟩
  rcases h.1 with hc | hc | hc <;> rw [hc] <;> rfl

/-- Every fault of a command is one that R401 lists for it. -/
theorem body_faults (i : Instr) (s : State) : Cmd.FaultsIn (FaultReport i s) (body i s) := by
  cases i with
  | nop => exact .ok _
  | evaluate => exact evaluateCmd_faults s (.plain rfl) (.plain rfl) fun hlen _ h => .ofElement hlen h
  | ldib => exact ldibCmd_faults (.plain rfl)
  | fpAdd | fpSub | fpMul | fp2Add | fp2Sub | fp2Mul | fp6Add | fp6Sub | fp6Mul | fp12Add | fp12Sub | fp12Mul =>
    exact binaryCmd_faults (.plain rfl) (.plain rfl)
  | fpNeg | fp2Neg | fp6Neg | fp12Neg => exact unaryCmd_faults (.plain rfl) (.plain rfl)
  | fpInv | fp2Inv | fp6Inv | fp12Inv | finexp => exact nonzeroCmd_faults (.plain rfl) (.plain rfl) (.plain rfl)
  | fpEq | fp2Eq | fp6Eq | fp12Eq => exact equalCmd_faults (.plain rfl) (.plain rfl)
  | decG1 => exact decG1Cmd_faults (.plain rfl) (.plain rfl) (.plain rfl)
  | decG2 => exact decG2Cmd_faults (.plain rfl) (.plain rfl) (.plain rfl) (.plain rfl)
  | g1Chk => exact g1ChkCmd_faults (.plain rfl) (.plain rfl)
  | g2Chk | g2Subgrp => exact g2TestCmd_faults (.plain rfl) (.plain rfl)
  | lineDbl => exact lineDblCmd_faults (.plain rfl) (.plain rfl) (.plain rfl)
  | lineAdd => exact lineAddCmd_faults (.plain rfl) (.plain rfl) (.plain rfl)
  | miller | pair => exact pairCmd_faults (.plain rfl) (.plain rfl) (.plain rfl)
  | accPair => exact accPairCmd_faults (.plain rfl) (.plain rfl) (.plain rfl)
  | accInit | accCheck => exact .ok _
  | accStore => exact accStoreCmd_faults (.plain rfl)

/-- The core's step completes the command with an effect, raises IllegalOpcode, or raises a fault of the decoded
command. -/
theorem coreStep_report (s : State) :
    (∃ e, coreStep s = .next (s.complete e)) ∨ coreStep s = .next (s.raise ⟨.illegalOpcode, 0⟩) ∨
      ∃ i r, FaultReport i s r ∧ coreStep s = .next (s.raise r) := by
  rw [coreStep_eq]
  split
  case h_1 i _ =>
    cases h : body i s with
    | ok e => exact .inl ⟨e, finish_ok s e⟩
    | error r => exact .inr (.inr ⟨i, r, body_faults i s r h, finish_error s r⟩)
  case h_2 => exact .inr (.inl rfl)

end Sys2Proof.Machine
end

section
/-! SUPPORT. The invariant of the block, over the steps of the core and of the host: its part about the sizes, which rests
on CAPS and the input buffer alone, and its part about the report of the last command (10_state.md R30, R33). -/

namespace Sys2Proof.Machine

namespace State

/-! ### The two parts of the invariant -/

/-- The part of the invariant that speaks of CAPS and the input buffer (R8, R25, R34). -/
structure SizesOk (s : State) : Prop where
  maxPairs_pos : 1 ≤ s.maxPairs
  maxPairs_le : s.maxPairs ≤ 170
  numWords_eq : s.numWords = scratchWords
  ibuf_wf : Memory.wf s.ibuf = true
  ibuf_lt : ∀ c ∈ s.ibuf, c.1 < s.ibufBytes

theorem maxPairs_congr {s t : State} (h : t.caps = s.caps) : t.maxPairs = s.maxPairs := by simp [maxPairs, h]

theorem numWords_congr {s t : State} (h : t.caps = s.caps) : t.numWords = s.numWords := by simp [numWords, h]

theorem ibufBytes_congr {s t : State} (h : t.caps = s.caps) : t.ibufBytes = s.ibufBytes := by
  simp [ibufBytes, maxPairs_congr h]

theorem Inv.sizesOk {s : State} (h : s.Inv) : s.SizesOk :=
  ⟨h.maxPairs_pos, h.maxPairs_le, h.numWords_eq, h.ibuf_wf, h.ibuf_lt⟩

theorem SizesOk.congr {s t : State} (h : s.SizesOk) (hcaps : t.caps = s.caps) (hibuf : t.ibuf = s.ibuf) :
    t.SizesOk where
  maxPairs_pos := maxPairs_congr hcaps ▸ h.maxPairs_pos
  maxPairs_le := maxPairs_congr hcaps ▸ h.maxPairs_le
  numWords_eq := numWords_congr hcaps ▸ h.numWords_eq
  ibuf_wf := hibuf ▸ h.ibuf_wf
  ibuf_lt := by rw [hibuf, ibufBytes_congr hcaps]; exact h.ibuf_lt

/-- Writing a byte that exists keeps the buffer canonical and inside its size (R65). -/
theorem SizesOk.setIbByte {s : State} (h : s.SizesOk) {j : Nat} (hj : j < s.ibufBytes) (v : Byte) :
    (s.setIbByte j v).SizesOk where
  maxPairs_pos := h.maxPairs_pos
  maxPairs_le := h.maxPairs_le
  numWords_eq := h.numWords_eq
  ibuf_wf := Memory.wf_write h.ibuf_wf j v
  ibuf_lt c hc := by
    rcases Memory.mem_write hc with hc | rfl
    · exact h.ibuf_lt c hc
    · exact hj

/-- A state that reports no error satisfies the invariant, if its sizes do and a command in flight has cleared DONE and
RESULT (R30, R462). -/
theorem SizesOk.inv_of_noError {s : State} (h : s.SizesOk) (herr : s.err = false) (hcode : s.errCode = .none)
    (hinfo : s.errInfo = 0) (hbusy : s.busy = true → s.done = false ∧ s.result = false) : s.Inv where
  maxPairs_pos := h.maxPairs_pos
  maxPairs_le := h.maxPairs_le
  numWords_eq := h.numWords_eq
  ibuf_wf := h.ibuf_wf
  ibuf_lt := h.ibuf_lt
  errCode_none _ := hcode
  errCode_some he := by simp [herr] at he
  result_of_err he := by simp [herr] at he
  of_busy hb := ⟨(hbusy hb).1, herr, (hbusy hb).2, hcode, hinfo⟩
  errInfo_reserved := by rw [hinfo]; rfl
  errElem_lt := by rw [errElem, hinfo]; exact h.maxPairs_pos
  errInfo_code hi := absurd hinfo hi

/-! ### The ERRINFO word -/

theorem reserved_errInfoWord (k : Nat) (part : Bool) : (errInfoWord k part).extractLsb' 17 15 = 0 := by
  refine BitVec.eq_of_getLsbD_eq fun i hi => ?_
  simp only [errInfoWord, BitVec.getLsbD_extractLsb', BitVec.getLsbD_append, hi]
  rw [if_neg (by omega), if_neg (by omega)]
  simp

theorem elem_errInfoWord (k : Nat) (part : Bool) : (errInfoWord k part).extractLsb' 0 16 = BitVec.ofNat 16 k := by
  refine BitVec.eq_of_getLsbD_eq fun i hi => ?_
  simp only [errInfoWord, BitVec.getLsbD_extractLsb', BitVec.getLsbD_append, hi]
  rw [if_pos (by omega)]
  simp

/-! ### Completion, fault, accept and soft reset -/

theorem Inv.complete {s : State} (h : s.Inv) (e : Effect) : (s.complete e).Inv :=
  (h.sizesOk.congr (caps_complete s e) (ibuf_complete s e)).inv_of_noError rfl rfl rfl (by simp)

/-- A fault keeps the invariant if it has a code, and its ERRINFO is 0 or names an element of the block after a decode
error (R33, R400). -/
theorem Inv.raise {s : State} (h : s.Inv) {r : Raise} (hcode : r.code ≠ .none)
    (hinfo : r.info = 0 ∨ NamesElement 0 s.maxPairs r) : (s.raise r).Inv where
  maxPairs_pos := h.maxPairs_pos
  maxPairs_le := h.maxPairs_le
  numWords_eq := h.numWords_eq
  ibuf_wf := h.ibuf_wf
  ibuf_lt := h.ibuf_lt
  errCode_none he := by simp at he
  errCode_some _ := hcode
  result_of_err _ := rfl
  of_busy hb := by simp at hb
  errInfo_reserved := by
    rcases hinfo with hi | ⟨_, k, part, _, _, hi⟩
    · rw [errInfo_raise, hi]; rfl
    · rw [errInfo_raise, hi, reserved_errInfoWord]
  errElem_lt := by
    rw [errElem, errInfo_raise, maxPairs_congr (caps_raise s r)]
    rcases hinfo with hi | ⟨_, k, part, _, hk, hi⟩
    · rw [hi]; exact h.maxPairs_pos
    · rw [hi, elem_errInfoWord, BitVec.toNat_ofNat]
      exact (Nat.mod_le k _).trans_lt hk
  errInfo_code hi := (hinfo.resolve_left hi).1

theorem Inv.accept {s : State} (h : s.Inv) (c : BusWord) : (s.accept c).Inv :=
  (h.sizesOk.congr (caps_accept s c) (ibuf_accept s c)).inv_of_noError rfl rfl rfl fun _ => ⟨rfl, rfl⟩

theorem Inv.softReset {s : State} (h : s.Inv) : s.softReset.Inv :=
  (h.sizesOk.congr (caps_softReset s) (ibuf_softReset s)).inv_of_noError rfl rfl rfl fun _ => ⟨rfl, rfl⟩

/-! ### The core's step -/

/-- An element of an input that fits the buffer is below MAX_PAIRS (R25, R310). -/
theorem elements_le_maxPairs {s : State} (h : s.len.toNat ≤ s.ibufBytes) : s.len.toNat / 192 ≤ s.maxPairs := by
  simp only [ibufBytes] at h; omega

theorem Inv.raise_of_report {s : State} (h : s.Inv) {i : Instr} {r : Raise} (hr : FaultReport i s r) :
    (s.raise r).Inv := by
  refine h.raise (fun hc => ?_) (hr.info.imp_right fun ⟨_, hlen, hn⟩ => hn.mono le_rfl (elements_le_maxPairs hlen))
  have := hr.code
  simp [hc, mayRaise] at this

theorem Inv.coreStep {s t : State} (h : s.Inv) (ht : coreStep s = .next t) : t.Inv := by
  rcases coreStep_report s with ⟨e, he⟩ | hill | ⟨i, r, hr, hraise⟩
  · obtain rfl : s.complete e = t := by simpa [he] using ht
    exact h.complete e
  · obtain rfl : s.raise ⟨.illegalOpcode, 0⟩ = t := by simpa [hill] using ht
    exact h.raise (by simp) (.inl rfl)
  · obtain rfl : s.raise r = t := by simpa [hraise] using ht
    exact h.raise_of_report hr

/-! ### The host's accesses -/

/-- The report of the last command is as before, but that DONE may have been cleared (R29). -/
structure KeepsReport (s t : State) : Prop where
  busy : t.busy = s.busy
  done : s.done = false → t.done = false
  err : t.err = s.err
  result : t.result = s.result
  errCode : t.errCode = s.errCode
  errInfo : t.errInfo = s.errInfo

/-- A change that keeps the report and MAX_PAIRS keeps the invariant, as long as the sizes stay right. -/
theorem Inv.of_keepsReport {s t : State} (h : s.Inv) (hs : t.SizesOk) (hcaps : t.caps = s.caps)
    (hr : KeepsReport s t) : t.Inv where
  maxPairs_pos := hs.maxPairs_pos
  maxPairs_le := hs.maxPairs_le
  numWords_eq := hs.numWords_eq
  ibuf_wf := hs.ibuf_wf
  ibuf_lt := hs.ibuf_lt
  errCode_none := by rw [hr.err, hr.errCode]; exact h.errCode_none
  errCode_some := by rw [hr.err, hr.errCode]; exact h.errCode_some
  result_of_err := by rw [hr.err, hr.result]; exact h.result_of_err
  of_busy hb := by
    obtain ⟨hd, he, hres, hc, hi⟩ := h.of_busy (hr.busy ▸ hb)
    exact ⟨hr.done hd, hr.err.trans he, hr.result.trans hres, hr.errCode.trans hc, hr.errInfo.trans hi⟩
  errInfo_reserved := by rw [hr.errInfo]; exact h.errInfo_reserved
  errElem_lt := by rw [errElem, hr.errInfo, maxPairs_congr hcaps]; exact h.errElem_lt
  errInfo_code := by rw [hr.errInfo, hr.errCode]; exact h.errInfo_code

/-- A change of other fields than CAPS, the input buffer and the report keeps the invariant. -/
theorem Inv.congr {s t : State} (h : s.Inv) (hcaps : t.caps = s.caps) (hibuf : t.ibuf = s.ibuf)
    (hr : KeepsReport s t) : t.Inv :=
  h.of_keepsReport (h.sizesOk.congr hcaps hibuf) hcaps hr

theorem Inv.setIbByte {s : State} (h : s.Inv) {j : Nat} (hj : j < s.ibufBytes) (v : Byte) : (s.setIbByte j v).Inv :=
  h.of_keepsReport (h.sizesOk.setIbByte hj v) rfl ⟨rfl, fun hd => hd, rfl, rfl, rfl, rfl⟩

/-- A write of the four bytes from `j` keeps the invariant when the last of them exists. -/
theorem Inv.setIbBusWord {s : State} (h : s.Inv) {j : Nat} (hj : j + 3 < s.ibufBytes) (v : BusWord) :
    (s.setIbBusWord j v).Inv :=
  (((h.setIbByte (j := j) (by omega) _).setIbByte (j := j + 1) (show j + 1 < s.ibufBytes by omega) _).setIbByte
    (j := j + 2) (show j + 2 < s.ibufBytes by omega) _).setIbByte (j := j + 3) hj _

theorem Inv.setWord {s : State} (h : s.Inv) (k : Nat) (v : Word) : (s.setWord k v).Inv :=
  h.congr rfl rfl ⟨rfl, fun hd => hd, rfl, rfl, rfl, rfl⟩

theorem Inv.answer {s : State} (h : s.Inv) (v : BusWord) : (s.answer v).Inv :=
  h.congr rfl rfl ⟨rfl, fun hd => hd, rfl, rfl, rfl, rfl⟩

theorem Inv.answerFree {s : State} (h : s.Inv) : s.answerFree.Inv :=
  h.congr rfl rfl ⟨rfl, fun hd => hd, rfl, rfl, rfl, rfl⟩

theorem Inv.drop {s : State} (h : s.Inv) : s.drop.Inv := h.congr rfl rfl ⟨rfl, fun hd => hd, rfl, rfl, rfl, rfl⟩

theorem Inv.setLen {s : State} (h : s.Inv) (v : BusWord) : ({ s with len := v } : State).Inv :=
  h.congr rfl rfl ⟨rfl, fun hd => hd, rfl, rfl, rfl, rfl⟩

theorem Inv.setPending {s : State} (h : s.Inv) (ts : List HostTurn) : ({ s with pending := ts } : State).Inv :=
  h.congr rfl rfl ⟨rfl, fun hd => hd, rfl, rfl, rfl, rfl⟩

theorem Inv.busRead {s : State} (h : s.Inv) (off : Nat) : (s.busRead off).Inv := by
  unfold State.busRead
  split
  case h_1 r _ => exact h.answer _
  case h_2 k j _ => split <;> [exact h.answerFree; exact h.answer _]
  case h_3 j _ => split <;> [exact h.answerFree; exact h.answer _]
  case h_4 => exact h.answer 0

theorem Inv.writeCtrl {s : State} (h : s.Inv) (v : BusWord) : (s.writeCtrl v).Inv := by
  unfold State.writeCtrl
  split
  · exact h.softReset
  · exact h.congr rfl rfl ⟨rfl, fun hd => by simp [hd], rfl, rfl, rfl, rfl⟩

/-- The input bytes that an aligned offset selects exist, all four of them (R63, R65). -/
theorem ibuf_fourBytes {s : State} {off j : Nat} (hoff : off % 4 = 0) (hr : regionAt s.ibufBytes off = .ibuf j) :
    j + 3 < s.ibufBytes := by
  obtain ⟨rfl, hj⟩ := regionAt_eq_ibuf hr
  simp only [ibufBytes] at hj ⊢
  omega

theorem Inv.busWrite {s : State} (h : s.Inv) {off : Nat} (hoff : off % 4 = 0) (v : BusWord) :
    (s.busWrite off v).Inv := by
  unfold State.busWrite
  split
  case h_1 => exact h.writeCtrl v
  case h_2 => split <;> [exact h.drop; exact h.accept v]
  case h_3 => split <;> [exact h.drop; exact h.setLen v]
  case h_8 k j _ => split <;> [exact h.drop; exact h.setWord k _]
  case h_9 j hr => split <;> [exact h.drop; exact h.setIbBusWord (ibuf_fourBytes hoff hr) v]
  all_goals exact h

theorem Inv.hostAccess {s : State} (h : s.Inv) (a : HostAccess) : (s.hostAccess a).Inv := by
  cases a with
  | read size off =>
    simp only [State.hostAccess]
    split <;> [exact h.busRead _; exact h.drop.answer 0]
  | write size off v =>
    simp only [State.hostAccess]
    split
    case isTrue ha => exact h.busWrite (by simp only [aligned, Bool.and_eq_true, decide_eq_true_eq] at ha; exact ha.2) v
    case isFalse => exact h.drop

theorem Inv.hostMove {s : State} (h : s.Inv) : s.hostMove.Inv := by
  unfold State.hostMove
  split
  · exact h
  · exact (h.setPending _).hostAccess _

end State

/-! ### The step and the reset state -/

/-- Settles O17: the core's step keeps the invariant by what a command's fault can report, the host's move by what each
access writes. -/
theorem stepKeepsTheInvariant : Obligations.StepKeepsTheInvariant := by
  intro s t h ht
  cases hc : s.coreTurn with
  | true => exact h.coreStep (step_of_coreTurn hc ▸ ht)
  | false =>
    obtain rfl : s.hostMove = t := by simpa [step_of_hostTurn hc] using ht
    exact h.hostMove

theorem sizesOk_reset : State.reset.SizesOk where
  maxPairs_pos := by decide
  maxPairs_le := by decide
  numWords_eq := by decide
  ibuf_wf := rfl
  ibuf_lt c hc := nomatch hc

/-- Settles O16: the block reports no error after reset, and its sizes are those of the default CAPS. -/
theorem resetMeetsTheInvariant : Obligations.ResetMeetsTheInvariant :=
  sizesOk_reset.inv_of_noError rfl rfl rfl fun _ => ⟨rfl, rfl⟩

end Sys2Proof.Machine
end

section
/-! SUPPORT. Square and multiply is the power, and p is prime: a Pratt certificate, checked by the model's own `binPow` over
the integers modulo n, with a base and the primes of n - 1 for each n. -/

namespace Sys2Proof.Machine

/-! ### Square and multiply -/

/-- Under a map `f` that takes `op` to the product of a monoid, `binPow` is the power: the method of the model is
immaterial (R165, R266). -/
theorem map_binPow {α M : Type} [Monoid M] (f : α → M) {op : α → α → α} {e : α}
    (hop : ∀ a b, f (op a b) = f a * f b) (he : f e = 1) (x : α) {k w : Nat} (hk : k < 2 ^ w) :
    f (binPow op e x k w) = f x ^ k := by
  induction w generalizing k with
  | zero =>
    obtain rfl : k = 0 := by simpa using hk
    simpa [binPow] using he
  | succ w ih =>
    have half : f (binPow op e x (k / 2) w) = f x ^ (k / 2) := ih (by rw [pow_succ] at hk; omega)
    simp only [binPow]
    split
    · rw [hop, hop, half, ← pow_add, ← pow_succ]; congr 1; omega
    · rw [hop, half, ← pow_add]; congr 1; omega

/-! ### Primality by a certificate -/

/-- `a ^ k` modulo `n`, for exponents of at most 254 bits. -/
def powMod (n a k : Nat) : Nat := binPow (fun x y => x * y % n) 1 a k 254

theorem cast_powMod (n a : Nat) {k : Nat} (hk : k < 2 ^ 254) : (powMod n a k : ZMod n) = (a : ZMod n) ^ k :=
  map_binPow (Nat.cast : Nat → ZMod n) (by simp) (by simp) a hk

theorem powMod_mod_eq_one_iff (n a : Nat) {k : Nat} (hk : k < 2 ^ 254) :
    powMod n a k % n = 1 % n ↔ (a : ZMod n) ^ k = 1 := by
  rw [← cast_powMod n a hk]
  simpa using (ZMod.natCast_eq_natCast_iff' (powMod n a k) 1 n).symm

/-- The base `a` has order `n - 1` modulo `n`, where `qs` lists every prime factor of `n - 1`, none of them more than
four times. -/
abbrev PrattCertificate (n a : Nat) (qs : List Nat) : Prop :=
  n < 2 ^ 254 ∧ qs.prod ^ 4 % (n - 1) = 0 ∧ powMod n a (n - 1) % n = 1 % n ∧
    ∀ q ∈ qs, powMod n a ((n - 1) / q) % n ≠ 1 % n

/-- Lucas' test: a number with a certificate over primes is prime. -/
theorem prime_of_prattCertificate {n : Nat} (a : Nat) {qs : List Nat} (hqs : qs.Forall Nat.Prime)
    (h : PrattCertificate n a qs) : n.Prime := by
  obtain ⟨hlt, hdvd, hone, hne⟩ := h
  refine lucas_primality n a ((powMod_mod_eq_one_iff n a (by omega)).mp hone) fun q hq hqn => ?_
  have hprod : q ∣ qs.prod := hq.dvd_of_dvd_pow (hqn.trans (Nat.dvd_of_mod_eq_zero hdvd))
  obtain ⟨r, hr, hqr⟩ := (hq.prime.dvd_prod_iff).mp hprod
  obtain rfl : q = r := (Nat.prime_dvd_prime_iff_eq hq (List.forall_iff_forall_mem.mp hqs r hr)).mp hqr
  have hlt' : (n - 1) / q < 2 ^ 254 := (Nat.div_le_self _ _).trans_lt (by omega)
  exact fun hpow => hne q hr ((powMod_mod_eq_one_iff n a hlt').mpr hpow)

/-! ### The prime p

The primes on the way down from p - 1, smallest first; below ten million `norm_num` decides. -/

theorem prime_405928799 : Nat.Prime 405928799 :=
  prime_of_prattCertificate 22 (qs := [2, 11, 3691, 4999]) (by norm_num) (by decide +kernel)

theorem prime_11465965001 : Nat.Prime 11465965001 :=
  prime_of_prattCertificate 3 (qs := [2, 5, 7, 327599]) (by norm_num) (by decide +kernel)

theorem prime_173171039 : Nat.Prime 173171039 :=
  prime_of_prattCertificate 13 (qs := [2, 73, 89, 13327]) (by norm_num) (by decide +kernel)

theorem prime_1263766531 : Nat.Prime 1263766531 :=
  prime_of_prattCertificate 10 (qs := [2, 3, 5, 13, 911, 3557]) (by norm_num) (by decide +kernel)

theorem prime_35385462869 : Nat.Prime 35385462869 :=
  prime_of_prattCertificate 2 (qs := [1263766531, 2, 7]) ⟨prime_1263766531, by norm_num⟩ (by decide +kernel)

theorem prime_2480874801745591 : Nat.Prime 2480874801745591 :=
  prime_of_prattCertificate 6 (qs := [35385462869, 2, 3, 5, 19, 41]) ⟨prime_35385462869, by norm_num⟩
    (by decide +kernel)

/-- The largest prime factor of p - 1. -/
theorem prime_13427688667394608761327070753331941386769 : Nat.Prime 13427688667394608761327070753331941386769 :=
  prime_of_prattCertificate 17 (qs := [2480874801745591, 173171039, 2, 3, 7, 11, 1853641, 4562087])
    ⟨prime_2480874801745591, prime_173171039, by norm_num⟩ (by decide +kernel)

theorem prime_p : p.Prime :=
  prime_of_prattCertificate 3
    (qs := [13427688667394608761327070753331941386769, 11465965001, 405928799, 2, 3, 13, 29, 67, 229, 311, 983, 11003])
    ⟨prime_13427688667394608761327070753331941386769, prime_11465965001, prime_405928799, by norm_num⟩
    (by decide +kernel)

end Sys2Proof.Machine
end

section
/-! SUPPORT. Fp is the field of the integers modulo p: the embedding into `ZMod p`, and the inverse. -/

namespace Sys2Proof.Machine

namespace Fp

/-- An element of Fp as a residue class: Fp is the ring of integers modulo p (R120, R122). -/
def toZMod (a : Fp) : ZMod p := (a.val : ZMod p)

theorem toZMod_injective : Function.Injective toZMod := fun a b h => by
  have hmod : a.val % p = b.val % p := (ZMod.natCast_eq_natCast_iff' a.val b.val p).mp h
  rw [Nat.mod_eq_of_lt a.isLt, Nat.mod_eq_of_lt b.isLt] at hmod
  exact Fin.ext hmod

@[simp] theorem toZMod_ofNat (k : Nat) : (ofNat k).toZMod = k := by simp [toZMod, ofNat]

@[simp] theorem toZMod_zero : zero.toZMod = 0 := by simp [zero]

@[simp] theorem toZMod_one : one.toZMod = 1 := by simp [one]

@[simp] theorem toZMod_mul (a b : Fp) : (a * b).toZMod = a.toZMod * b.toZMod := by simp [toZMod, Fin.val_mul]

theorem toZMod_eq_zero_iff {a : Fp} : a.toZMod = 0 ↔ a = zero := by
  rw [← toZMod_zero]; exact toZMod_injective.eq_iff

/-- `inv_p` is the power p - 2 (R128). -/
theorem toZMod_inv_eq_pow (a : Fp) : a.inv.toZMod = a.toZMod ^ (p - 2) :=
  map_binPow toZMod toZMod_mul toZMod_one a (by decide)

/-- Fermat: since p is prime, the power p - 2 of a nonzero element is its inverse. -/
theorem mul_inv_eq_one {a : Fp} (ha : a ≠ zero) : a * a.inv = one := by
  have : Fact p.Prime := ⟨prime_p⟩
  apply toZMod_injective
  calc (a * a.inv).toZMod
      = a.toZMod * a.toZMod ^ (p - 2) := by rw [toZMod_mul, toZMod_inv_eq_pow]
    _ = a.toZMod ^ (p - 1) := (pow_succ' a.toZMod (p - 2)).symm
    _ = 1 := ZMod.pow_card_sub_one_eq_one (mt toZMod_eq_zero_iff.mp ha)
    _ = one.toZMod := toZMod_one.symm

/-- What multiplies to 1 with `a` is the one inverse of `a`, as in every commutative ring. -/
theorem eq_inv_of_mul_eq_one {a b : Fp} (ha : a ≠ zero) (hb : a * b = one) : b = a.inv := by
  have left : b.toZMod * a.toZMod = 1 := by rw [mul_comm, ← toZMod_mul, hb, toZMod_one]
  have right : a.toZMod * a.inv.toZMod = 1 := by rw [← toZMod_mul, mul_inv_eq_one ha, toZMod_one]
  exact toZMod_injective (left_inv_eq_right_inv left right)

end Fp

/-- Settles O30: existence by Fermat's little theorem over the certified prime p, uniqueness by the ring laws. -/
theorem fpInverseIsUnique : Obligations.FpInverseIsUnique := fun _ hx =>
  ⟨Fp.mul_inv_eq_one hx, fun _ => Fp.eq_inv_of_mul_eq_one hx⟩

end Sys2Proof.Machine
end

section
/-! SUPPORT. The hardwired constants of 00_scope.md R9, 42_curve.md R221 and 43_pairing.md R261 to R266, each by evaluating
the model's own arithmetic on the BN parameter and on ξ. -/

namespace Sys2Proof.Machine

/-- p and n are the BN polynomials at u (R9). -/
theorem p_eq_bnPolynomial : p = 36 * bnParam ^ 4 + 36 * bnParam ^ 3 + 24 * bnParam ^ 2 + 6 * bnParam + 1 := by
  norm_num [p, bnParam]

theorem groupOrder_eq_bnPolynomial :
    groupOrder = 36 * bnParam ^ 4 + 36 * bnParam ^ 3 + 18 * bnParam ^ 2 + 6 * bnParam + 1 := by
  norm_num [groupOrder, bnParam]

theorem loopParam_eq : loopParam = 0x19d797039be763ba8 := by norm_num [loopParam, bnParam]

/-- n divides p^12 - 1, and the final exponent is the quotient (R266). -/
theorem groupOrder_mul_finalExponent : groupOrder * finalExponent = p ^ 12 - 1 :=
  Nat.mul_div_cancel' (by norm_num [groupOrder, p])

/-- `b' · ξ = 3` (R221). -/
theorem twistB_mul_xi : twistB.mul Fp2.xi = Fp2.ofNat 3 := by decide

/-- The Frobenius constants are the powers of ξ that R264 names. -/
theorem frobG12_eq_pow : frobG12 = binPow Fp2.mul Fp2.one Fp2.xi ((p - 1) / 3) 254 := by decide +kernel

theorem frobG13_eq_pow : frobG13 = binPow Fp2.mul Fp2.one Fp2.xi ((p - 1) / 2) 254 := by decide +kernel

theorem frobG22_eq_pow : frobG22 = binPow Fp2.mul Fp2.one Fp2.xi ((p ^ 2 - 1) / 3) 508 := by decide +kernel

/-- Settles O35: relation by relation. -/
theorem constantsSatisfyTheirRelations : Obligations.ConstantsSatisfyTheirRelations :=
  ⟨p_eq_bnPolynomial, groupOrder_eq_bnPolynomial, loopParam_eq, groupOrder_mul_finalExponent, rfl, twistB_mul_xi,
    frobG12_eq_pow, frobG13_eq_pow, frobG22_eq_pow⟩

end Sys2Proof.Machine
end

section
/-! SUPPORT. What a command that completes can leave: its effect writes exactly the destination ranges of the opcode
table (30_encoding.md R92), ACC and RESULT only where 10_state.md R26 and R35 allow it; and what a completion step leaves
untouched (R96, R97). -/

namespace Sys2Proof.Machine

/-! ### The effects of a body -/

/-- Every effect that the body ends with satisfies `P`. -/
def Cmd.EffectsIn (P : Effect → Prop) (c : Cmd Effect) : Prop := ∀ e, c = .ok e → P e

namespace Cmd.EffectsIn

variable {α : Type} {P : Effect → Prop}

theorem ok {e : Effect} (h : P e) : Cmd.EffectsIn P (.ok e) := by
  rintro _ ⟨⟩; exact h

theorem error (r : Raise) : Cmd.EffectsIn P (.error r) := fun _ h => nomatch h

/-- The effect of a sequence is that of its last part, whatever the checks before it give. -/
theorem bind {c : Cmd α} {f : α → Cmd Effect} (hf : ∀ v, Cmd.EffectsIn P (f v)) : Cmd.EffectsIn P (c >>= f) := by
  cases c with
  | ok v => exact hf v
  | error r => exact error r

theorem ite {q : Prop} [Decidable q] {c c' : Cmd Effect} (hc : Cmd.EffectsIn P c) (hc' : Cmd.EffectsIn P c') :
    Cmd.EffectsIn P (if q then c else c') := by
  split <;> assumption

end Cmd.EffectsIn

/-! ### The command shapes -/

section Shapes

variable {α : Type} {P : Effect → Prop} {l : Layout α} {d a b : Idx} {s : State}

theorem binaryCmd_effects {f : α → α → α} (h : ∀ x, P { writes := [(d.toNat, l.store x)] }) :
    Cmd.EffectsIn P (binaryCmd l f d a b s) :=
  .bind fun _ => .bind fun _ => .bind fun _ => .bind fun _ => .bind fun _ => .ok (h _)

theorem unaryCmd_effects {f : α → α} (h : ∀ x, P { writes := [(d.toNat, l.store x)] }) :
    Cmd.EffectsIn P (unaryCmd l f d a s) :=
  .bind fun _ => .bind fun _ => .bind fun _ => .ok (h _)

theorem nonzeroCmd_effects [DecidableEq α] {f : α → α} (h : ∀ x, P { writes := [(d.toNat, l.store x)] }) :
    Cmd.EffectsIn P (nonzeroCmd l f d a s) :=
  .bind fun _ => .bind fun _ => .bind fun _ => .ite (.error _) (.ok (h _))

theorem equalCmd_effects [DecidableEq α] (h : ∀ r, P { result := r }) : Cmd.EffectsIn P (equalCmd l a b s) :=
  .bind fun _ => .bind fun _ => .bind fun _ => .bind fun _ => .ok (h _)

theorem g1ChkCmd_effects (h : ∀ r, P { result := r }) : Cmd.EffectsIn P (g1ChkCmd a s) :=
  .bind fun _ => .bind fun _ => .ok (h _)

theorem g2TestCmd_effects {test : G2 → Bool} (h : ∀ r, P { result := r }) : Cmd.EffectsIn P (g2TestCmd test a s) :=
  .bind fun _ => .bind fun _ => .ok (h _)

theorem decG1Cmd_effects (h : ∀ q, P { writes := [(d.toNat, storeG1 q)] }) : Cmd.EffectsIn P (decG1Cmd d a s) :=
  .bind fun _ => .bind fun _ => .bind fun _ => .ok (h _)

theorem decG2Cmd_effects (h : ∀ q, P { writes := [(d.toNat, storeG2 q)] }) : Cmd.EffectsIn P (decG2Cmd d a s) :=
  .bind fun _ => .bind fun _ => .bind fun _ => .ok (h _)

theorem pairCmd_effects {f : G1 → G2 → Fp12} (h : ∀ x, P { writes := [(d.toNat, storeFp12 x)] }) :
    Cmd.EffectsIn P (pairCmd f d a b s) :=
  .bind fun _ => .bind fun _ => .bind fun _ => .bind fun _ => .ok (h _)

theorem lineDblCmd_effects (h : ∀ Q r, P (lineEffect d a Q r)) : Cmd.EffectsIn P (lineDblCmd d a b s) :=
  .bind fun _ => .bind fun _ => .bind fun _ => .bind fun _ => .bind fun _ => .bind fun _ => .bind fun _ =>
    .bind fun _ => .ok (h _ _)

theorem lineAddCmd_effects (h : ∀ Q r, P (lineEffect d a Q r)) : Cmd.EffectsIn P (lineAddCmd d a b s) :=
  .bind fun _ => .bind fun _ => .bind fun _ => .bind fun _ => .bind fun _ => .bind fun _ => .bind fun _ =>
    .bind fun _ => .bind fun _ => .bind fun _ => .ok (h _ _)

theorem ldibCmd_effects {k : BitVec 16} (h : ∀ w, P { writes := [(d.toNat, [w])] }) : Cmd.EffectsIn P (ldibCmd d k s) :=
  .bind fun _ => .ite (.ok (h _)) (.error _)

theorem accPairCmd_effects (h : ∀ x, P { acc := some x }) : Cmd.EffectsIn P (accPairCmd a b s) :=
  .bind fun _ => .bind fun _ => .bind fun _ => .ok (h _)

theorem accStoreCmd_effects (h : ∀ x, P { writes := [(d.toNat, storeFp12 x)] }) : Cmd.EffectsIn P (accStoreCmd d s) :=
  .bind fun _ => .ok (h _)

theorem evaluateCmd_effects (h : ∀ x r, P { acc := some x, result := r }) : Cmd.EffectsIn P (evaluateCmd s) :=
  .ite (.error _) (.ite (.ok (h _ _)) (.ite (.error _) (.bind fun _ => .ok (h _ _))))

end Shapes

/-! ### Every command -/

/-- What the tables let command `i` leave: words at its destination ranges (R92), a new ACC only if it writes ACC (R26),
and RESULT = 1 only if it is boolean-producing (R35). -/
structure EffectReport (i : Instr) (e : Effect) : Prop where
  ranges : e.writes.map (fun w => (w.1, w.2.length)) = destRanges i
  acc : writesAcc i = false → e.acc = none
  result : e.result = true → producesResult i = true

theorem EffectReport.ofWrites {i : Instr} {ws : List (Nat × List Word)}
    (h : ws.map (fun w => (w.1, w.2.length)) = destRanges i) : EffectReport i { writes := ws } :=
  ⟨h, fun _ => rfl, nofun⟩

theorem EffectReport.ofResult {i : Instr} {r : Bool} (h : destRanges i = []) (hr : producesResult i = true) :
    EffectReport i { result := r } :=
  ⟨h.symm, fun _ => rfl, fun _ => hr⟩

theorem EffectReport.ofAcc {i : Instr} {x : Fp12} {r : Bool} (h : destRanges i = []) (hx : writesAcc i = true)
    (hr : r = true → producesResult i = true) : EffectReport i { acc := some x, result := r } :=
  ⟨h.symm, fun hx' => by simp [hx] at hx', hr⟩

/-- Every effect of a command is one that the tables list for it. -/
theorem body_effects (i : Instr) (s : State) : Cmd.EffectsIn (EffectReport i) (body i s) := by
  cases i with
  | nop => exact .ok (.ofWrites rfl)
  | evaluate => exact evaluateCmd_effects fun _ _ => .ofAcc rfl rfl fun _ => rfl
  | ldib => exact ldibCmd_effects fun _ => .ofWrites rfl
  | fpAdd | fpSub | fpMul | fp2Add | fp2Sub | fp2Mul | fp6Add | fp6Sub | fp6Mul | fp12Add | fp12Sub | fp12Mul =>
    exact binaryCmd_effects fun _ => .ofWrites rfl
  | fpNeg | fp2Neg | fp6Neg | fp12Neg => exact unaryCmd_effects fun _ => .ofWrites rfl
  | fpInv | fp2Inv | fp6Inv | fp12Inv | finexp => exact nonzeroCmd_effects fun _ => .ofWrites rfl
  | fpEq | fp2Eq | fp6Eq | fp12Eq => exact equalCmd_effects fun _ => .ofResult rfl rfl
  | decG1 => exact decG1Cmd_effects fun _ => .ofWrites (by simp [destRanges])
  | decG2 => exact decG2Cmd_effects fun _ => .ofWrites (by simp [destRanges])
  | g1Chk => exact g1ChkCmd_effects fun _ => .ofResult rfl rfl
  | g2Chk | g2Subgrp => exact g2TestCmd_effects fun _ => .ofResult rfl rfl
  | lineDbl => exact lineDblCmd_effects fun _ _ => .ofWrites (by simp [destRanges])
  | lineAdd => exact lineAddCmd_effects fun _ _ => .ofWrites (by simp [destRanges])
  | miller | pair => exact pairCmd_effects fun _ => .ofWrites rfl
  | accInit => exact .ok (.ofAcc rfl rfl nofun)
  | accPair => exact accPairCmd_effects fun _ => .ofAcc rfl rfl nofun
  | accCheck => exact .ok (.ofResult rfl rfl)
  | accStore => exact accStoreCmd_effects fun _ => .ofWrites rfl

/-- Everything a command can do: it completes with an effect that the tables allow it, or raises a fault that they list
for it. -/
theorem exec_report {i : Instr} {s t : State} (h : exec i s = .next t) :
    (∃ e, EffectReport i e ∧ t = s.complete e) ∨ (∃ r, FaultReport i s r ∧ t = s.raise r) := by
  rw [exec_eq_finish] at h
  rcases finish_cases h with ⟨e, he, rfl⟩ | ⟨r, hr, rfl⟩
  · exact .inl ⟨e, body_effects i s e he, rfl⟩
  · exact .inr ⟨r, body_faults i s r hr, rfl⟩

/-- A command always answers a next state: the completion with an effect or with a fault. -/
theorem exec_total (i : Instr) (s : State) :
    (∃ e, exec i s = .next (s.complete e)) ∨ (∃ r, exec i s = .next (s.raise r)) := by
  rw [exec_eq_finish]
  cases body i s with
  | ok e => exact .inl ⟨e, finish_ok s e⟩
  | error r => exact .inr ⟨r, finish_error s r⟩

/-! ### What a completion step leaves -/

theorem ibByte_congr {s t : State} (h : t.ibuf = s.ibuf) (j : Nat) : t.ibByte j = s.ibByte j := by
  simp [State.ibByte, h]

theorem untouched_complete (s : State) (e : Effect) : Untouched s (s.complete e) where
  ibByte := ibByte_congr (s.ibuf_complete e)
  id := s.id_complete e
  caps := s.caps_complete e
  ie := s.ie_complete e
  herr := s.herr_complete e
  lastCmd := s.lastCmd_complete e
  len := s.len_complete e
  pending := s.pending_complete e
  readData := s.readData_complete e
  draws := s.draws_complete e

theorem untouched_raise (s : State) (r : Raise) : Untouched s (s.raise r) :=
  ⟨fun _ => rfl, rfl, rfl, rfl, rfl, rfl, rfl, rfl, rfl, rfl⟩

/-- IRQ is IE where DONE = 1 (R40). -/
theorem irq_of_done {s : State} (h : s.done = true) : s.irq = s.ie := by simp [State.irq, h]

theorem exists_step (s : State) : ∃ t, step s = .next t := by
  cases hc : s.coreTurn with
  | false => exact ⟨_, step_of_hostTurn hc⟩
  | true =>
    rw [step_of_coreTurn hc]
    rcases coreStep_cases s with ⟨e, he⟩ | ⟨r, hr⟩
    · exact ⟨_, he⟩
    · exact ⟨_, hr⟩

/-- Settles O8: a command ends in its completion or in its fault, and both set DONE and keep IE. -/
theorem everyCommandCompletes : Obligations.EveryCommandCompletes := by
  refine ⟨exists_step, fun i s => ?_⟩
  rcases exec_total i s with ⟨e, he⟩ | ⟨r, hr⟩
  · exact ⟨_, he, rfl, rfl, (irq_of_done rfl).trans (s.ie_complete e), untouched_complete s e⟩
  · exact ⟨_, hr, rfl, rfl, irq_of_done rfl, untouched_raise s r⟩

theorem not_mem_rangeWords {rs : List (Nat × Nat)} {k : Nat} :
    k ∉ rangeWords rs ↔ ∀ r ∈ rs, k < r.1 ∨ r.1 + r.2 ≤ k := by
  simp only [rangeWords, List.mem_flatMap, List.mem_range'_1, not_exists, not_and, not_lt]
  exact forall₂_congr fun _ _ => by omega

/-- A completion keeps every word outside the destination ranges of its command. -/
theorem word_complete_of_report {i : Instr} {e : Effect} (he : EffectReport i e) (s : State) {k : Nat}
    (hk : k ∉ rangeWords (destRanges i)) : (s.complete e).word k = s.word k := by
  rw [← he.ranges, not_mem_rangeWords] at hk
  rw [State.word_complete]
  exact s.word_applyWrites_of_outside e.writes fun w hw => hk _ (List.mem_map_of_mem hw)

/-- Settles O10: an effect writes at the destination ranges and gives ACC only if the command may; a fault writes
nothing. -/
theorem commandsWriteOnlyTheirDestinations : Obligations.CommandsWriteOnlyTheirDestinations := by
  intro i s t h
  rcases exec_report h with ⟨e, he, rfl⟩ | ⟨r, -, rfl⟩
  · exact ⟨fun k hk => word_complete_of_report he s hk, fun hi => by simp [he.acc hi]⟩
  · exact ⟨fun _ _ => rfl, fun _ => rfl⟩

/-! ### What a completion step reports -/

/-- ELEM of a fault that names an element below `len / 192` is that of an element that starts inside the input (R33). -/
theorem NamesElement.errElem_lt {s : State} {r : Raise} {len : Nat} (h : NamesElement 0 (len / 192) r) :
    192 * (s.raise r).errElem.toNat < len := by
  obtain ⟨_, k, part, _, hk, hinfo⟩ := h
  rw [State.errElem, State.errInfo_raise, hinfo, State.elem_errInfoWord, BitVec.toNat_ofNat]
  have := Nat.mod_le k (2 ^ 16)
  omega

/-- Settles O11: a completion reports no error, and RESULT only where the command has one; a fault reports a code of the
table, and an element only from EVALUATE. -/
theorem reportIsAsTheTablesList : Obligations.ReportIsAsTheTablesList := by
  intro i s t h
  rcases exec_report h with ⟨e, he, rfl⟩ | ⟨r, hr, rfl⟩
  · exact ⟨he.result, fun herr => by simp at herr, fun hinfo => absurd rfl hinfo⟩
  · refine ⟨fun hres => by simp at hres, fun _ => hr.code, fun hinfo => ?_⟩
    obtain ⟨hi, _, hn⟩ := hr.info.resolve_left hinfo
    exact ⟨hi, hn.errElem_lt, hn.1⟩

end Sys2Proof.Machine
end

section
/-! SUPPORT. The host's accesses: which region an offset lies in (20_memory.md R62, R63), everything one access can do,
and what becomes of ID, CAPS, HERR and the operands of a command in flight (10_state.md R27 to R34, 20_memory.md R66 to
R69). -/

namespace Sys2Proof.Machine

/-! ### The address map -/

/-- The offset of a register (R27). -/
def Register.offset : Register → BitVec 16
  | .id => 0x000
  | .ctrl => 0x004
  | .status => 0x008
  | .cmd => 0x00C
  | .len => 0x010
  | .errInfo => 0x014
  | .caps => 0x018

theorem regionAt_offset (m : Nat) (r : Register) : regionAt m r.offset.toNat = .register r := by cases r <;> rfl

/-- CTRL lies at no other offset than its own. -/
theorem regionAt_eq_ctrl {m off : Nat} (h : regionAt m off = .register .ctrl) : off = 0x004 := by
  simp [regionAt, ite_eq_iff] at h
  omega

/-- The regions whose writes are dropped while BUSY = 1 (R66). -/
def Region.guarded : Region → Bool
  | .register .cmd | .register .len | .scratch _ _ | .ibuf _ => true
  | .register .id | .register .ctrl | .register .status | .register .errInfo | .register .caps | .reserved => false

theorem guarded_regionAt_iff {s : State} {off : Nat} :
    (regionAt s.ibufBytes off).guarded = true ↔ BusyTarget s off := by
  simp only [regionAt, apply_ite Region.guarded]
  simp [Region.guarded]
  omega

theorem regionAt_of_reservedOffset {s : State} {off : Nat} (h : ReservedOffset s off) :
    regionAt s.ibufBytes off = .reserved := by
  unfold regionAt
  repeat rw [if_neg (by omega)]

theorem aligned_iff {size : AccessSize} {off : BitVec 16} :
    aligned size off = true ↔ size = .word ∧ off.toNat % 4 = 0 := by
  simp [aligned]

theorem aligned_register (r : Register) : aligned .word r.offset = true := by cases r <;> rfl

namespace State

/-! ### Performed and dropped accesses -/

theorem hostAccess_read_aligned (s : State) {size : AccessSize} {off : BitVec 16} (h : aligned size off = true) :
    s.hostAccess (.read size off) = s.busRead off.toNat := if_pos h

theorem hostAccess_write_aligned (s : State) {size : AccessSize} {off : BitVec 16} (h : aligned size off = true)
    (v : BusWord) : s.hostAccess (.write size off v) = s.busWrite off.toNat v := if_pos h

theorem hostAccess_read_misaligned (s : State) {size : AccessSize} {off : BitVec 16} (h : ¬aligned size off = true) :
    s.hostAccess (.read size off) = s.drop.answer 0 := if_neg h

theorem hostAccess_write_misaligned (s : State) {size : AccessSize} {off : BitVec 16} (h : ¬aligned size off = true)
    (v : BusWord) : s.hostAccess (.write size off v) = s.drop := if_neg h

/-- A register reads as laid out, whatever BUSY is (R462). -/
theorem hostAccess_read_register (s : State) (r : Register) :
    s.hostAccess (.read .word r.offset) = s.answer (s.readRegister r) := by
  rw [hostAccess_read_aligned s (aligned_register r), busRead, regionAt_offset]

theorem busWrite_ctrl (s : State) (v : BusWord) : s.busWrite Register.ctrl.offset.toNat v = s.writeCtrl v := by
  rw [busWrite, regionAt_offset]

theorem hostAccess_write_ctrl (s : State) (v : BusWord) :
    s.hostAccess (.write .word Register.ctrl.offset v) = s.writeCtrl v := by
  rw [hostAccess_write_aligned s (aligned_register _), busWrite_ctrl]

theorem hostAccess_write_cmd (s : State) (c : BusWord) :
    s.hostAccess (.write .word Register.cmd.offset c) = if s.busy then s.drop else s.accept c := by
  rw [hostAccess_write_aligned s (aligned_register _), busWrite, regionAt_offset]

theorem hostAccess_write_len (s : State) (v : BusWord) :
    s.hostAccess (.write .word Register.len.offset v) = if s.busy then s.drop else { s with len := v } := by
  rw [hostAccess_write_aligned s (aligned_register _), busWrite, regionAt_offset]

/-- A write to a guarded region while BUSY = 1 is dropped (R66). -/
theorem busWrite_of_busyTarget {s : State} {off : Nat} (hb : s.busy = true) (ht : BusyTarget s off) (v : BusWord) :
    s.busWrite off v = s.drop := by
  have hg := guarded_regionAt_iff.mpr ht
  unfold busWrite
  split <;> simp_all [Region.guarded]

theorem busRead_reserved {s : State} {off : Nat} (h : ReservedOffset s off) : s.busRead off = s.answer 0 := by
  rw [busRead, regionAt_of_reservedOffset h]

theorem busWrite_reserved {s : State} {off : Nat} (h : ReservedOffset s off) (v : BusWord) : s.busWrite off v = s := by
  rw [busWrite, regionAt_of_reservedOffset h]

/-! ### The CTRL register -/

theorem writeCtrl_of_srst (s : State) {v : BusWord} (h : v.getLsbD 0 = true) : s.writeCtrl v = s.softReset := if_pos h

theorem writeCtrl_of_not_srst (s : State) {v : BusWord} (h : v.getLsbD 0 = false) : s.writeCtrl v =
    { s with herr := s.herr && !v.getLsbD 1, done := s.done && !v.getLsbD 2, ie := v.getLsbD 3 } := by
  rw [writeCtrl, h, if_neg (by decide)]
  cases v.getLsbD 1 <;> cases v.getLsbD 2 <;> simp

@[simp] theorem id_writeCtrl (s : State) (v : BusWord) : (s.writeCtrl v).id = s.id := by
  cases h : v.getLsbD 0 with
  | true => rw [writeCtrl_of_srst s h, id_softReset]
  | false => rw [writeCtrl_of_not_srst s h]

@[simp] theorem caps_writeCtrl (s : State) (v : BusWord) : (s.writeCtrl v).caps = s.caps := by
  cases h : v.getLsbD 0 with
  | true => rw [writeCtrl_of_srst s h, caps_softReset]
  | false => rw [writeCtrl_of_not_srst s h]

/-- HERR outlasts a CTRL write exactly if neither SRST nor HERRCLR is set (R29). -/
theorem herr_writeCtrl (s : State) (v : BusWord) :
    (s.writeCtrl v).herr = true ↔ s.herr = true ∧ ¬(v.getLsbD 0 = true ∨ v.getLsbD 1 = true) := by
  cases h : v.getLsbD 0 with
  | true => simp [writeCtrl_of_srst s h]
  | false => simp [writeCtrl_of_not_srst s h]

/-- CTRL reads as IE in bit 3 (R29). -/
theorem ctrlWord_eq (s : State) : s.ctrlWord = if s.ie then 8 else 0 := by
  simp only [ctrlWord]
  cases s.ie <;> rfl

/-! ### Everything an access can do -/

/-- The states that one access of the host can leave. -/
inductive AccessEffect (s : State) : State → Prop
  /-- The write is ignored (R27, R63). -/
  | ignored : AccessEffect s s
  /-- The read is answered (R69). -/
  | answered (v : BusWord) : AccessEffect s (s.answer v)
  /-- The read of storage in use is answered with a free value (R68). -/
  | answeredFree : AccessEffect s s.answerFree
  /-- The write is dropped (R66, R67). -/
  | dropped : AccessEffect s s.drop
  /-- The read is dropped and returns 0 (R67). -/
  | droppedRead : AccessEffect s (s.drop.answer 0)
  | ctrl (v : BusWord) : AccessEffect s (s.writeCtrl v)
  | accepted (c : BusWord) (hidle : s.busy = false) : AccessEffect s (s.accept c)
  | lenWritten (v : BusWord) (hidle : s.busy = false) : AccessEffect s { s with len := v }
  | wordWritten (k : Nat) (v : Word) (hidle : s.busy = false) : AccessEffect s (s.setWord k v)
  | bytesWritten (j : Nat) (v : BusWord) (hidle : s.busy = false) : AccessEffect s (s.setIbBusWord j v)

theorem accessEffect_busRead (s : State) (off : Nat) : AccessEffect s (s.busRead off) := by
  unfold busRead
  split
  case h_2 | h_3 => split <;> [exact .answeredFree; exact .answered _]
  all_goals exact .answered _

/-- A guarded write is dropped while BUSY = 1 and performed otherwise. -/
theorem AccessEffect.unlessBusy {s t : State} (h : s.busy = false → AccessEffect s t) :
    AccessEffect s (if s.busy then s.drop else t) := by
  cases hb : s.busy with
  | true => exact .dropped
  | false => exact h hb

theorem accessEffect_busWrite (s : State) (off : Nat) (v : BusWord) : AccessEffect s (s.busWrite off v) := by
  unfold busWrite
  split
  case h_1 => exact .ctrl v
  case h_2 => exact .unlessBusy (.accepted v)
  case h_3 => exact .unlessBusy (.lenWritten v)
  case h_8 => exact .unlessBusy (.wordWritten _ _)
  case h_9 => exact .unlessBusy (.bytesWritten _ v)
  all_goals exact .ignored

theorem accessEffect_hostAccess (s : State) (x : HostAccess) : AccessEffect s (s.hostAccess x) := by
  cases x with
  | read size off =>
    by_cases h : aligned size off = true
    · rw [hostAccess_read_aligned s h]; exact accessEffect_busRead s _
    · rw [hostAccess_read_misaligned s h]; exact .droppedRead
  | write size off v =>
    by_cases h : aligned size off = true
    · rw [hostAccess_write_aligned s h]; exact accessEffect_busWrite s _ v
    · rw [hostAccess_write_misaligned s h]; exact .dropped

/-! ### ID and CAPS -/

theorem AccessEffect.id_caps {s t : State} (h : AccessEffect s t) : t.id = s.id ∧ t.caps = s.caps := by
  cases h with
  | ctrl v => exact ⟨id_writeCtrl s v, caps_writeCtrl s v⟩
  | _ => exact ⟨rfl, rfl⟩

theorem hostMove_id_caps (s : State) : s.hostMove.id = s.id ∧ s.hostMove.caps = s.caps := by
  unfold hostMove
  split
  · exact ⟨rfl, rfl⟩
  · exact (accessEffect_hostAccess _ _).id_caps

/-! ### The operands of a command in flight -/

/-- What a command in flight reads, and which command it is (R66). -/
structure SameOperands (s t : State) : Prop where
  scratch : t.scratch = s.scratch
  ibuf : t.ibuf = s.ibuf
  len : t.len = s.len
  acc : t.acc = s.acc
  lastCmd : t.lastCmd = s.lastCmd

/-- An access that leaves the command in flight changes none of its operands: all else is guarded by BUSY, and only the
soft reset aborts it. -/
theorem AccessEffect.sameOperands {s t : State} (h : AccessEffect s t) (hs : s.busy = true) (ht : t.busy = true) :
    SameOperands s t := by
  cases h with
  | ignored | answered | answeredFree | dropped | droppedRead => exact ⟨rfl, rfl, rfl, rfl, rfl⟩
  | ctrl v =>
    cases hv : v.getLsbD 0 with
    | true => simp [writeCtrl_of_srst s hv] at ht
    | false => rw [writeCtrl_of_not_srst s hv]; exact ⟨rfl, rfl, rfl, rfl, rfl⟩
  | accepted _ hidle | lenWritten _ hidle | wordWritten _ _ hidle | bytesWritten _ _ hidle => simp [hs] at hidle

/-! ### HERR -/

@[simp] theorem herr_busRead (s : State) (off : Nat) : (s.busRead off).herr = s.herr := by
  unfold busRead
  split
  case h_2 | h_3 => split <;> rfl
  all_goals rfl

/-- A guarded write sets HERR while BUSY = 1; when performed, it leaves HERR (R66). -/
theorem herr_unlessBusy {s t : State} (h : t.herr = s.herr) :
    (if s.busy then s.drop else t).herr = true ↔ s.busy = true ∨ s.herr = true := by
  cases s.busy <;> simp [h]

/-- Only a guarded write while BUSY = 1 changes HERR, apart from a write to CTRL. -/
theorem herr_busWrite_of_ne_ctrl (s : State) {off : Nat} (h : off ≠ 0x004) (v : BusWord) :
    (s.busWrite off v).herr = true ↔ (s.busy = true ∧ BusyTarget s off) ∨ s.herr = true := by
  rw [← guarded_regionAt_iff]
  unfold busWrite
  split
  case h_1 hr => exact absurd (regionAt_eq_ctrl hr) h
  case h_2 hr | h_3 hr | h_8 hr | h_9 hr =>
    refine (herr_unlessBusy ?_).trans ?_
    · rfl
    · simp [hr, Region.guarded]
  all_goals
    next hr => simp [hr, Region.guarded]

/-- HERR after an aligned write: set by a guarded write while BUSY = 1, cleared by a write to CTRL alone (R404). -/
theorem herr_busWrite (s : State) (off : Nat) (v : BusWord) : (s.busWrite off v).herr = true ↔
    (s.busy = true ∧ BusyTarget s off) ∨
      (s.herr = true ∧ ¬(off = 0x004 ∧ (v.getLsbD 0 = true ∨ v.getLsbD 1 = true))) := by
  by_cases h : off = 0x004
  · subst h
    have hctrl : s.busWrite 0x004 v = s.writeCtrl v := s.busWrite_ctrl v
    simp [hctrl, herr_writeCtrl]
  · simp [herr_busWrite_of_ne_ctrl s h, h]

/-- HERR after an access has exactly the causes of R404. -/
theorem herr_hostAccess (s : State) (x : HostAccess) :
    (s.hostAccess x).herr = true ↔ AccessError s x ∨ (s.herr = true ∧ ¬ClearsHerr x) := by
  cases x with
  | read size off =>
    by_cases h : aligned size off = true
    · obtain ⟨rfl, hoff⟩ := aligned_iff.mp h
      simp [hostAccess_read_aligned s h, AccessError, ClearsHerr, hoff]
    · have herror : AccessError s (.read size off) := by rwa [aligned_iff, not_and_or] at h
      simp [hostAccess_read_misaligned s h, herror]
  | write size off v =>
    by_cases h : aligned size off = true
    · obtain ⟨rfl, hoff⟩ := aligned_iff.mp h
      have hctrl : off = 4#16 ↔ off.toNat = 0x004 := BitVec.toNat_inj.symm
      simp [hostAccess_write_aligned s h, herr_busWrite, AccessError, ClearsHerr, hoff, hctrl]
    · have herror : AccessError s (.write size off v) := .inl (by rwa [aligned_iff, not_and_or] at h)
      simp [hostAccess_write_misaligned s h, herror]

end State

/-! ### The statements about the steps and the accesses -/

/-- Settles O18: neither a completion nor a fault nor an access of the host touches ID or CAPS. -/
theorem idAndCapsNeverChange : Obligations.IdAndCapsNeverChange := by
  intro s t h
  rcases step_cases h with ⟨_, e, rfl⟩ | ⟨_, r, rfl⟩ | ⟨_, rfl⟩
  · exact ⟨s.id_complete e, s.caps_complete e⟩
  · exact ⟨rfl, rfl⟩
  · exact s.hostMove_id_caps

/-- Settles O56: the writes by the map of guarded regions, the operands by everything an access can do. -/
theorem busyWritesAreDropped : Obligations.BusyWritesAreDropped := by
  refine ⟨fun s off v hb hoff ht => ?_, fun s x hs ht => ?_⟩
  · rw [s.hostAccess_write_aligned (aligned_iff.mpr ⟨rfl, hoff⟩), State.busWrite_of_busyTarget hb ht]
    rfl
  · obtain ⟨hscratch, hibuf, hlen, hacc, hcmd⟩ := (s.accessEffect_hostAccess x).sameOperands hs ht
    exact ⟨fun k => by simp [State.word, hscratch], ibByte_congr hibuf, hlen, hacc, hcmd⟩

/-- Settles O57: by region for the aligned accesses, by the one drop for all others. -/
theorem reservedAndMisalignedAccesses : Obligations.ReservedAndMisalignedAccesses := by
  refine ⟨fun s off v hoff hr => ?_, fun s off v hoff => ?_, fun s size off v hx => ?_⟩
  · have ha := aligned_iff.mpr ⟨rfl, hoff⟩
    rw [s.hostAccess_read_aligned ha, s.hostAccess_write_aligned ha, State.busRead_reserved hr,
      State.busWrite_reserved hr]
    exact ⟨rfl, rfl⟩
  · rcases hoff with rfl | rfl | rfl | rfl <;> rfl
  · have ha : ¬aligned size off = true := by rwa [aligned_iff, not_and_or]
    rw [s.hostAccess_read_misaligned ha, s.hostAccess_write_misaligned ha]
    exact ⟨rfl, rfl⟩

/-- The core's step and an idle step leave HERR (R404). -/
theorem herr_of_core_or_idle {s t : State} (h : step s = .next t) (hc : s.coreTurn = true ∨ s.pending = []) :
    t.herr = s.herr := by
  rcases step_cases h with ⟨_, e, rfl⟩ | ⟨_, r, rfl⟩ | ⟨hhost, rfl⟩
  · exact s.herr_complete e
  · rfl
  · simp [State.hostMove, hc.resolve_left (by simp [hhost])]

/-- Settles O59: the host's move is one access, on the state without the turn it has taken. -/
theorem herrHasExactlyItsCauses : Obligations.HerrHasExactlyItsCauses := by
  refine fun s t h => ⟨herr_of_core_or_idle h, fun turn rest hhost hp => ?_⟩
  obtain rfl : s.hostMove = t := by simpa [step_of_hostTurn hhost] using h
  have hmove : s.hostMove = { s with pending := rest }.hostAccess turn.access := by simp [State.hostMove, hp]
  rw [hmove, State.herr_hostAccess]
  cases turn.access <;> rfl

/-- Settles O21: the two branches of a CTRL write, and CTRL's layout. -/
theorem ctrlWriteActsByItsBits : Obligations.CtrlWriteActsByItsBits := by
  intro s v
  have hw : s.hostAccess (.write .word 0x004 v) = s.writeCtrl v := s.hostAccess_write_ctrl v
  rw [hw]
  exact ⟨s.writeCtrl_of_srst, s.writeCtrl_of_not_srst,
    (congrArg State.readData (s.hostAccess_read_register .ctrl)).trans s.ctrlWord_eq⟩

/-- Settles O51: the write is accepted, as R96 has it. -/
theorem cmdWriteAcceptsTheCommand : Obligations.CmdWriteAcceptsTheCommand := by
  intro s c hidle
  refine (s.hostAccess_write_cmd c).trans ?_
  rw [hidle]
  rfl

end Sys2Proof.Machine
end

section
/-! SUPPORT. The registers as the host reads them: the layout of STATUS, the numbers of the error codes, and the reset
values (10_state.md R27 to R34, R43, 60_exceptions.md R401, 70_reset_and_hazards.md R450). -/

namespace Sys2Proof.Machine

namespace State

/-! ### The layout of STATUS (R30) -/

/-- Bits 4 to 0 of STATUS are its flags. -/
theorem statusWord_flags (s : State) : s.statusWord.getLsbD 0 = s.busy ∧ s.statusWord.getLsbD 1 = s.done ∧
    s.statusWord.getLsbD 2 = s.err ∧ s.statusWord.getLsbD 3 = s.result ∧ s.statusWord.getLsbD 4 = s.herr := by
  simp only [statusWord, BitVec.getLsbD_append]
  simp

theorem statusWord_reservedLow (s : State) : s.statusWord.extractLsb' 5 3 = 0 := by
  refine BitVec.eq_of_getLsbD_eq fun i hi => ?_
  simp only [statusWord, BitVec.getLsbD_extractLsb', BitVec.getLsbD_append, hi]
  repeat rw [if_neg (by omega)]
  rw [if_pos (by omega)]
  simp

/-- Bits 11:8 are ERRCODE. -/
theorem statusWord_errCode (s : State) : s.statusWord.extractLsb' 8 4 = s.errCode.toBits := by
  refine BitVec.eq_of_getLsbD_eq fun i hi => ?_
  simp only [statusWord, BitVec.getLsbD_extractLsb', BitVec.getLsbD_append, hi]
  repeat rw [if_neg (by omega)]
  rw [if_pos (by omega), show 8 + i - 1 - 1 - 1 - 1 - 1 - 3 = i by omega]
  simp

theorem statusWord_reservedHigh (s : State) : s.statusWord.extractLsb' 12 20 = 0 := by
  refine BitVec.eq_of_getLsbD_eq fun i hi => ?_
  simp only [statusWord, BitVec.getLsbD_extractLsb', BitVec.getLsbD_append, hi]
  repeat rw [if_neg (by omega)]
  simp

/-- A read of a register returns it. -/
theorem readData_read_register (s : State) (r : Register) :
    (s.hostAccess (.read .word r.offset)).readData = s.readRegister r := by
  rw [hostAccess_read_register, readData_answer]

end State

/-- Settles O53: each read is that of a register at its offset. -/
theorem registersReadAsLaidOut : Obligations.RegistersReadAsLaidOut := by
  intro s
  obtain ⟨hbusy, hdone, herr, hresult, hherr⟩ := s.statusWord_flags
  refine ⟨⟨_, s.readData_read_register .status, hbusy, hdone, herr, hresult, hherr, s.statusWord_reservedLow,
      s.statusWord_errCode, s.statusWord_reservedHigh⟩,
    s.readData_read_register .id, (s.readData_read_register .ctrl).trans s.ctrlWord_eq, s.readData_read_register .cmd,
    s.readData_read_register .len, s.readData_read_register .errInfo, s.readData_read_register .caps,
    fun v hidle => ?_⟩
  refine (s.hostAccess_write_len v).trans ?_
  rw [hidle]
  rfl

/-- Settles O19: field by field, and with no access to come the idle block stays as it is. -/
theorem resetStateIsTheSpecs : Obligations.ResetStateIsTheSpecs := by
  refine ⟨rfl, rfl, rfl, rfl, rfl, rfl, rfl, ?_, rfl, ?_⟩
  · show capsValue Config.maxPairs = 0x010000AA
    decide
  · exact step_of_hostTurn rfl

/-- Settles O52: by the table. -/
theorem errorCodesAreNumberedAsListed : Obligations.ErrorCodesAreNumberedAsListed := rfl

end Sys2Proof.Machine
end

section
/-! SUPPORT. The storage windows as the host sees them: what a read and a write of one bus word of the scratch file and of
the input buffer do (20_memory.md R64, R65), and that a read leaves the block as it is (R69). -/

namespace Sys2Proof.Machine

/-! ### Bus words of a scratch word (R64) -/

/-- Bit by bit: the bits of bus word `j` come from `v`, the others stay. -/
theorem getLsbD_setBusField (w : Word) {j : Nat} (hj : j < 8) (v : BusWord) (i : Nat) :
    (setBusField w j v).getLsbD i =
      if 224 - 32 * j ≤ i ∧ i < 224 - 32 * j + 32 then v.getLsbD (i - (224 - 32 * j)) else w.getLsbD i := by
  simp only [setBusField, BitVec.getLsbD_or, BitVec.getLsbD_and, BitVec.getLsbD_not, BitVec.getLsbD_shiftLeft,
    BitVec.getLsbD_setWidth, BitVec.getLsbD_allOnes]
  by_cases hlow : 224 - 32 * j ≤ i
  · by_cases hhigh : i < 224 - 32 * j + 32
    · have hi : i < 256 := by omega
      have hoff : i - (224 - 32 * j) < 32 := by omega
      have hoff' : i - (224 - 32 * j) < 256 := by omega
      simp [hlow, hhigh, hi, hoff, hoff', Nat.not_lt.mpr hlow]
    · have hoff : ¬i - (224 - 32 * j) < 32 := by omega
      have hv : v.getLsbD (i - (224 - 32 * j)) = false := BitVec.getLsbD_of_ge v _ (by omega)
      simpa [hhigh, hoff, hv] using BitVec.lt_of_getLsbD (x := w)
  · have hi : i < 256 := by omega
    simp [hlow, hi, Nat.not_le.mp hlow]

theorem busField_setBusField_self (w : Word) {j : Nat} (hj : j < 8) (v : BusWord) : busField (setBusField w j v) j = v := by
  refine BitVec.eq_of_getLsbD_eq fun i hi => ?_
  rw [busField, BitVec.getLsbD_extractLsb', getLsbD_setBusField w hj, if_pos (by omega)]
  simp [hi]

theorem busField_setBusField_of_ne (w : Word) {j j' : Nat} (hj : j < 8) (hj' : j' < 8) (h : j' ≠ j) (v : BusWord) :
    busField (setBusField w j v) j' = busField w j' := by
  refine BitVec.eq_of_getLsbD_eq fun i hi => ?_
  simp only [busField, BitVec.getLsbD_extractLsb']
  rw [getLsbD_setBusField w hj, if_neg (by omega)]

namespace State

/-! ### Bytes of the input buffer (R65) -/

theorem ibByte_setIbByte {s : State} (h : Memory.wf s.ibuf = true) (j i : Nat) (v : Byte) :
    (s.setIbByte j v).ibByte i = if j = i then v else s.ibByte i :=
  Memory.read_write h j i v

/-- A bus word written into the buffer sets its four bytes and no other. -/
theorem ibByte_setIbBusWord {s : State} (h : Memory.wf s.ibuf = true) (j i : Nat) (v : BusWord) :
    (s.setIbBusWord j v).ibByte i =
      if j + 3 = i then v.extractLsb' 0 8 else if j + 2 = i then v.extractLsb' 8 8
      else if j + 1 = i then v.extractLsb' 16 8 else if j = i then v.extractLsb' 24 8 else s.ibByte i := by
  have h1 := Memory.wf_write h j (v.extractLsb' 24 8)
  have h2 := Memory.wf_write h1 (j + 1) (v.extractLsb' 16 8)
  have h3 := Memory.wf_write h2 (j + 2) (v.extractLsb' 8 8)
  rw [setIbBusWord, ibByte_setIbByte h3, ibByte_setIbByte h2, ibByte_setIbByte h1, ibByte_setIbByte h]

/-- The four bytes written, the first in bits 31:24, read back as the bus word. -/
theorem ibBusWord_setIbBusWord {s : State} (h : Memory.wf s.ibuf = true) (j : Nat) (v : BusWord) :
    (s.setIbBusWord j v).ibBusWord j = v := by
  have hbytes : v.extractLsb' 24 8 ++ v.extractLsb' 16 8 ++ v.extractLsb' 8 8 ++ v.extractLsb' 0 8 = v := by
    rw [BitVec.extractLsb'_append_extractLsb'_eq_extractLsb' (start₂ := 24) rfl,
      BitVec.extractLsb'_append_extractLsb'_eq_extractLsb' (start₂ := 16) rfl,
      BitVec.extractLsb'_append_extractLsb'_eq_extractLsb' (start₂ := 8) rfl]
    exact BitVec.extractLsb'_eq_self
  simpa [ibBusWord, ibByte_setIbBusWord h] using hbytes

theorem ibByte_setIbBusWord_of_outside {s : State} (h : Memory.wf s.ibuf = true) {j i : Nat} (hi : i < j ∨ j + 4 ≤ i)
    (v : BusWord) : (s.setIbBusWord j v).ibByte i = s.ibByte i := by
  rw [ibByte_setIbBusWord h]
  repeat rw [if_neg (by omega)]

/-! ### Accesses to the windows -/

/-- A multiple of 4 inside the window is the offset of an aligned access (R61). -/
theorem aligned_ofNat {off : Nat} (hlt : off < 0x10000) (h4 : off % 4 = 0) :
    aligned .word (BitVec.ofNat 16 off) = true ∧ (BitVec.ofNat 16 off).toNat = off := by
  have hoff : (BitVec.ofNat 16 off).toNat = off := Nat.mod_eq_of_lt hlt
  exact ⟨aligned_iff.mpr ⟨rfl, hoff.symm ▸ h4⟩, hoff⟩

theorem hostAccess_read_ofNat (s : State) {off : Nat} (hlt : off < 0x10000) (h4 : off % 4 = 0) :
    s.hostAccess (.read .word (BitVec.ofNat 16 off)) = s.busRead off := by
  obtain ⟨hal, hoff⟩ := aligned_ofNat hlt h4
  rw [hostAccess_read_aligned s hal, hoff]

theorem hostAccess_write_ofNat (s : State) {off : Nat} (hlt : off < 0x10000) (h4 : off % 4 = 0) (v : BusWord) :
    s.hostAccess (.write .word (BitVec.ofNat 16 off) v) = s.busWrite off v := by
  obtain ⟨hal, hoff⟩ := aligned_ofNat hlt h4
  rw [hostAccess_write_aligned s hal, hoff]

section Scratch
variable {s : State} {k j : Nat} (hk : k < 256) (hj : j < 8) (hidle : s.busy = false)
include hk hj hidle

theorem hostAccess_read_scratch :
    s.hostAccess (.read .word (BitVec.ofNat 16 (0x2000 + 32 * k + 4 * j))) = s.answer (busField (s.word k) j) := by
  rw [hostAccess_read_ofNat s (by omega) (by omega), busRead, regionAt_scratch _ hk hj]
  simp [hidle]

theorem hostAccess_write_scratch (v : BusWord) :
    s.hostAccess (.write .word (BitVec.ofNat 16 (0x2000 + 32 * k + 4 * j)) v) =
      s.setWord k (setBusField (s.word k) j v) := by
  rw [hostAccess_write_ofNat s (by omega) (by omega), busWrite, regionAt_scratch _ hk hj]
  simp [hidle]

end Scratch

section Ibuf
variable {s : State} {j : Nat} (hsize : s.ibufBytes ≤ 32768) (h4 : j % 4 = 0) (hj : j < s.ibufBytes)
  (hidle : s.busy = false)
include hsize h4 hj hidle

theorem hostAccess_read_ibuf :
    s.hostAccess (.read .word (BitVec.ofNat 16 (0x8000 + j))) = s.answer (s.ibBusWord j) := by
  rw [hostAccess_read_ofNat s (by omega) (by omega), busRead, regionAt_ibuf hj]
  simp [hidle]

theorem hostAccess_write_ibuf (v : BusWord) :
    s.hostAccess (.write .word (BitVec.ofNat 16 (0x8000 + j)) v) = s.setIbBusWord j v := by
  rw [hostAccess_write_ofNat s (by omega) (by omega), busWrite, regionAt_ibuf hj]
  simp [hidle]

end Ibuf

/-- All a performed read does is to answer a value, or a free one where the core may be using the storage (R68, R69). -/
theorem busRead_cases (s : State) (off : Nat) : (∃ v, s.busRead off = s.answer v) ∨ s.busRead off = s.answerFree := by
  unfold busRead
  split
  case h_2 | h_3 =>
    cases s.busy with
    | true => exact .inr rfl
    | false => exact .inl ⟨_, rfl⟩
  all_goals exact .inl ⟨_, rfl⟩

end State

/-! ### The statements about the windows -/

/-- Settles O54: the offset selects bus word `j` of word `k`, and a write replaces that field of that word. -/
theorem scratchWindowIsBigEndian : Obligations.ScratchWindowIsBigEndian := by
  intro s k j v hk hj hidle
  have hword := s.word_setWord_self hk (setBusField (s.word k) j v)
  refine ⟨congrArg State.readData (State.hostAccess_read_scratch hk hj hidle), _,
    State.hostAccess_write_scratch hk hj hidle v, rfl, ?_, fun j' hj' hne => ?_, fun k' hne => ?_⟩
  · rw [hword]; exact busField_setBusField_self _ hj v
  · rw [hword]; exact busField_setBusField_of_ne _ hj hj' hne v
  · exact s.word_setWord_of_ne hne.symm _

/-- Settles O55: the offset selects the four bytes from `j`, and a write sets them one by one. -/
theorem inputWindowIsBigEndian : Obligations.InputWindowIsBigEndian := by
  intro s j v hwf hsize h4 hj hidle
  exact ⟨congrArg State.readData (State.hostAccess_read_ibuf hsize h4 hj hidle), _,
    State.hostAccess_write_ibuf hsize h4 hj hidle v, rfl, State.ibBusWord_setIbBusWord hwf j v,
    fun _ hi => State.ibByte_setIbBusWord_of_outside hwf hi v⟩

/-- Settles O58: an aligned read answers a value or draws one. -/
theorem readsHaveNoSideEffect : Obligations.ReadsHaveNoSideEffect := by
  intro s off h4
  refine ⟨_, s.hostAccess_read_aligned (aligned_iff.mpr ⟨rfl, h4⟩), ?_⟩
  rcases s.busRead_cases off.toNat with ⟨v, hv⟩ | hfree
  · rw [hv]; rfl
  · rw [hfree]; rfl

end Sys2Proof.Machine
end

section
/-! SUPPORT. The command word taken apart: a word decodes to a command exactly when it agrees with the command's encoding
on the bits the command uses, and to none exactly when its opcode is reserved (30_encoding.md R90 to R94, R99, R101). -/

namespace Sys2Proof

/-! ### The command word and its fields -/

/-- A word is made of its four fields (R90). -/
@[simp] theorem commandWord_fields (c : BusWord) : commandWord (opField c) (dField c) (aField c) (bField c) = c := by
  rw [commandWord, opField, dField, aField, bField,
    BitVec.extractLsb'_append_extractLsb'_eq_extractLsb' (start₂ := 24) rfl,
    BitVec.extractLsb'_append_extractLsb'_eq_extractLsb' (start₂ := 16) rfl,
    BitVec.extractLsb'_append_extractLsb'_eq_extractLsb' (start₂ := 8) rfl]
  exact BitVec.extractLsb'_eq_self

theorem commandWord_inj {op d a b op' d' a' b' : BitVec 8} :
    commandWord op d a b = commandWord op' d' a' b' ↔ op = op' ∧ d = d' ∧ a = a' ∧ b = b' := by
  refine ⟨fun h => ?_, by rintro ⟨rfl, rfl, rfl, rfl⟩; rfl⟩
  have hop := congrArg opField h
  have hd := congrArg dField h
  have ha := congrArg aField h
  have hb := congrArg bField h
  simp only [opField_commandWord, dField_commandWord, aField_commandWord, bField_commandWord] at hop hd ha hb
  exact ⟨hop, hd, ha, hb⟩

/-- The limb index of LDIB is the two bytes that A and B hold (R91). -/
@[simp] theorem limbIndex_bytes (k : BitVec 16) : k.extractLsb' 8 8 ++ k.extractLsb' 0 8 = k := by
  rw [BitVec.extractLsb'_append_extractLsb'_eq_extractLsb' (start₂ := 8) rfl]
  exact BitVec.extractLsb'_eq_self

@[simp] theorem highByte_limbIndex (a b : BitVec 8) : (a ++ b : BitVec 16).extractLsb' 8 8 = a :=
  BitVec.extractLsb'_append_eq_left

@[simp] theorem lowByte_limbIndex (a b : BitVec 8) : (a ++ b : BitVec 16).extractLsb' 0 8 = b :=
  BitVec.extractLsb'_append_eq_right

/-- Settles O2: the word holds the command's opcode and fields, and LDIB's limb index in two bytes. -/
theorem decodeOfEncodeIsTheCommand : Obligations.DecodeOfEncodeIsTheCommand := by
  intro i
  cases i with
  | ldib d k =>
    calc decode (encode (.ldib d k))
      _ = .ok (.ldib d (k.extractLsb' 8 8 ++ k.extractLsb' 0 8)) := decode_commandWord ..
      _ = .ok (.ldib d k) := by rw [limbIndex_bytes]
  | _ => exact decode_commandWord ..

/-! ### The used bits -/

section Masks

variable (op d a b : BitVec 8)

theorem commandWord_and (mo md ma mb : BitVec 8) : commandWord op d a b &&& commandWord mo md ma mb =
    commandWord (op &&& mo) (d &&& md) (a &&& ma) (b &&& mb) := by
  change (op ++ d ++ a ++ b : BitVec (8 + 8 + 8 + 8)) &&& (mo ++ md ++ ma ++ mb) = _
  simp only [BitVec.and_append]
  rfl

@[simp] theorem and_fullField (x : BitVec 8) : x &&& 255#8 = x := BitVec.and_allOnes

/-! One equation for each pattern of fields that a row of R92 uses. -/

@[simp] theorem commandWord_and_op : commandWord op d a b &&& 0xff000000#32 = commandWord op 0 0 0 :=
  (commandWord_and op d a b 0xff 0 0 0).trans (by simp)

@[simp] theorem commandWord_and_op_d : commandWord op d a b &&& 0xffff0000#32 = commandWord op d 0 0 :=
  (commandWord_and op d a b 0xff 0xff 0 0).trans (by simp)

@[simp] theorem commandWord_and_op_a : commandWord op d a b &&& 0xff00ff00#32 = commandWord op 0 a 0 :=
  (commandWord_and op d a b 0xff 0 0xff 0).trans (by simp)

@[simp] theorem commandWord_and_op_d_a : commandWord op d a b &&& 0xffffff00#32 = commandWord op d a 0 :=
  (commandWord_and op d a b 0xff 0xff 0xff 0).trans (by simp)

@[simp] theorem commandWord_and_op_a_b : commandWord op d a b &&& 0xff00ffff#32 = commandWord op 0 a b :=
  (commandWord_and op d a b 0xff 0 0xff 0xff).trans (by simp)

@[simp] theorem commandWord_and_op_d_a_b : commandWord op d a b &&& 0xffffffff#32 = commandWord op d a b :=
  (commandWord_and op d a b 0xff 0xff 0xff 0xff).trans (by simp)

end Masks

/-! ### Decoding as agreement on the used bits -/

/-- The fields of a decoded command are those of the word, and its unused fields are encoded as 0. -/
theorem encode_of_decodeFields {op d a b : BitVec 8} {i : Instr} (h : decodeFields op d a b = .ok i) :
    encode i = commandWord op d a b &&& usedBits i := by
  unfold decodeFields at h
  split at h <;> cases h <;>
    simp [encode, usedBits]

/-- A word that has a command's opcode and its fields decodes to it, whatever its other fields hold. -/
theorem decodeFields_of_encode {op d a b : BitVec 8} {i : Instr}
    (h : encode i = commandWord op d a b &&& usedBits i) : decodeFields op d a b = .ok i := by
  cases i with
  | ldib d' k =>
    obtain ⟨rfl, rfl, rfl, rfl⟩ := commandWord_inj.mp (h.trans (commandWord_and_op_d_a_b ..))
    exact congrArg (fun k => Except.ok (Instr.ldib d' k)) (limbIndex_bytes k)
  | fpAdd | fpSub | fpMul | fp2Add | fp2Sub | fp2Mul | fp6Add | fp6Sub | fp6Mul | fp12Add | fp12Sub | fp12Mul
  | lineDbl | lineAdd | miller | pair =>
    obtain ⟨rfl, rfl, rfl, rfl⟩ := commandWord_inj.mp (h.trans (commandWord_and_op_d_a_b ..))
    rfl
  | fpNeg | fpInv | fp2Neg | fp2Inv | fp6Neg | fp6Inv | fp12Neg | fp12Inv | decG1 | decG2 | finexp =>
    obtain ⟨rfl, rfl, rfl, -⟩ := commandWord_inj.mp (h.trans (commandWord_and_op_d_a ..))
    rfl
  | fpEq | fp2Eq | fp6Eq | fp12Eq | accPair =>
    obtain ⟨rfl, -, rfl, rfl⟩ := commandWord_inj.mp (h.trans (commandWord_and_op_a_b ..))
    rfl
  | g1Chk | g2Chk | g2Subgrp =>
    obtain ⟨rfl, -, rfl, -⟩ := commandWord_inj.mp (h.trans (commandWord_and_op_a ..))
    rfl
  | accStore =>
    obtain ⟨rfl, rfl, -, -⟩ := commandWord_inj.mp (h.trans (commandWord_and_op_d ..))
    rfl
  | nop | evaluate | accInit | accCheck =>
    obtain ⟨rfl, -, -, -⟩ := commandWord_inj.mp (h.trans (commandWord_and_op ..))
    rfl

/-- A word decodes to a command exactly when it agrees with the command's encoding on the bits the command uses. -/
theorem decode_eq_ok_iff {c : BusWord} {i : Instr} : decode c = .ok i ↔ encode i = c &&& usedBits i := by
  rw [decode]
  constructor
  · intro h
    rw [encode_of_decodeFields h, commandWord_fields]
  · intro h
    exact decodeFields_of_encode (by rw [h, commandWord_fields])

/-- Settles O3: a word that agrees with `c` on the used bits agrees there with the command's encoding. -/
theorem unusedFieldsAreIgnored : Obligations.UnusedFieldsAreIgnored := by
  intro c i h
  have hc : encode i = c &&& usedBits i := decode_eq_ok_iff.mp h
  exact ⟨hc, fun c' hc' => decode_eq_ok_iff.mpr (hc.trans hc'.symm)⟩

/-- Settles O1: the decoder's table, run on each of the eleven words. -/
theorem decodeReadsTheWordsOfTheSpec : Obligations.DecodeReadsTheWordsOfTheSpec := by
  unfold Obligations.DecodeReadsTheWordsOfTheSpec
  decide

end Sys2Proof

namespace Sys2Proof.Machine

/-! ### Reserved opcodes -/

/-- The decoder answers a command, or names the opcode as illegal. -/
theorem decodeFields_cases (op d a b : BitVec 8) :
    (∃ i, decodeFields op d a b = .ok i) ∨ decodeFields op d a b = .error (.illegalOpcode op) := by
  fun_cases decodeFields op d a b
  case case42 => exact .inr rfl
  all_goals exact .inl ⟨_, rfl⟩

/-- Whether an opcode is illegal does not depend on the other fields (R100). -/
theorem decodeFields_illegal_congr (op d a b d' a' b' : BitVec 8) :
    decodeFields op d a b = .error (.illegalOpcode op) ↔ decodeFields op d' a' b' = .error (.illegalOpcode op) := by
  fun_cases decodeFields op d a b
  case case42 => simp_all [decodeFields]
  all_goals exact iff_of_false nofun nofun

/-- R99's ranges against the opcode table, opcode by opcode. -/
theorem reservedOpcode_iff_decodeFields_zero :
    ∀ op : BitVec 8, ReservedOpcode op.toNat ↔ decodeFields op 0 0 0 = .error (.illegalOpcode op) := by
  decide +kernel

/-- The decoder rejects exactly the words with a reserved opcode (R99). -/
theorem reservedOpcode_iff (c : BusWord) :
    ReservedOpcode (opField c).toNat ↔ decode c = .error (.illegalOpcode (opField c)) :=
  (reservedOpcode_iff_decodeFields_zero _).trans (decodeFields_illegal_congr ..)

/-- Every other word decodes to a command. -/
theorem not_reservedOpcode_iff (c : BusWord) : ¬ReservedOpcode (opField c).toNat ↔ ∃ i, decode c = .ok i := by
  rw [reservedOpcode_iff]
  rcases decodeFields_cases (opField c) (dField c) (aField c) (bField c) with ⟨i, hi⟩ | he
  · simp [decode, hi]
  · simp [decode, he]

/-! ### The core's step on a command word -/

/-- A fault as R400 has it: the report alone. -/
theorem faulted_raise (s : State) (r : Raise) : Faulted s (s.raise r) r.code r.info where
  busy := rfl
  done := rfl
  err := rfl
  errCode := rfl
  errInfo := rfl
  result := rfl
  scratch _ := rfl
  acc := rfl
  rest := untouched_raise s r

/-- Settles O5: the core's turn is the completion step of LASTCMD. -/
theorem stepRunsTheDecodedCommand : Obligations.StepRunsTheDecodedCommand := by
  intro s i hcore hi
  rw [step_of_coreTurn hcore, coreStep_eq, hi, exec_eq_finish]

/-- Settles O4: R99's ranges are the opcodes outside the decoder's table, and the core answers such a word with the
fault. -/
theorem reservedOpcodesRaiseIllegalOpcode : Obligations.ReservedOpcodesRaiseIllegalOpcode := by
  refine ⟨reservedOpcode_iff, not_reservedOpcode_iff, fun s hcore hres => ?_⟩
  have hstep : step s = .next (s.raise ⟨.illegalOpcode, 0⟩) := by
    rw [step_of_coreTurn hcore, coreStep_eq, (reservedOpcode_iff s.lastCmd).mp hres]
  exact ⟨_, hstep, faulted_raise s _⟩

end Sys2Proof.Machine
end

section
/-! SUPPORT. The checks of every command, in the order of 60_exceptions.md R403: first those of the operands' places
(30_encoding.md R95, R98, 45_control.md R341), then those of their words (40_field_fp.md R121, 41_field_ext.md R161), and
only then what raises another error or completes. -/

namespace Sys2Proof.Machine

/-! ### Canonical words -/

/-- The first `w` words that `r` gives are canonical (R121). -/
def CanonicalWords (r : Nat → Word) (w : Nat) : Prop := ∀ k < w, (r k).toNat < p

theorem canonicalWords_one {r : Nat → Word} : CanonicalWords r 1 ↔ (r 0).toNat < p := by
  simp [CanonicalWords]

theorem canonicalWords_add {r : Nat → Word} {m n : Nat} :
    CanonicalWords r (m + n) ↔ CanonicalWords r m ∧ CanonicalWords (fun k => r (k + m)) n := by
  constructor
  · intro h
    exact ⟨fun k hk => h k (by omega), fun k hk => h (k + m) (by omega)⟩
  · rintro ⟨hm, hn⟩ k hk
    by_cases hkm : k < m
    · exact hm k hkm
    · simpa [Nat.sub_add_cancel (not_lt.mp hkm)] using hn (k - m) (by omega)

theorem loadFp_isSome (r : Nat → Word) : (loadFp r).isSome ↔ CanonicalWords r 1 := by
  rw [canonicalWords_one, ← not_le, ← Fp.ofWord?_eq_none]
  exact Option.isSome_iff_ne_none

theorem loadFp2_isSome (r : Nat → Word) : (loadFp2 r).isSome ↔ CanonicalWords r 2 := by
  rw [show 2 = 1 + 1 from rfl, canonicalWords_add, ← loadFp_isSome, ← loadFp_isSome, loadFp2]
  cases loadFp r <;> cases loadFp (fun k => r (k + 1)) <;> simp

theorem loadFp6_isSome (r : Nat → Word) : (loadFp6 r).isSome ↔ CanonicalWords r 6 := by
  rw [show 6 = 2 + (2 + 2) from rfl, canonicalWords_add, canonicalWords_add, ← loadFp2_isSome, ← loadFp2_isSome,
    ← loadFp2_isSome, loadFp6]
  cases loadFp2 r <;> cases loadFp2 (fun k => r (k + 2)) <;> cases loadFp2 (fun k => r (k + 4)) <;> simp

theorem loadFp12_isSome (r : Nat → Word) : (loadFp12 r).isSome ↔ CanonicalWords r 12 := by
  rw [show 12 = 6 + 6 from rfl, canonicalWords_add, ← loadFp6_isSome, ← loadFp6_isSome, loadFp12]
  cases loadFp6 r <;> cases loadFp6 (fun k => r (k + 6)) <;> simp

theorem loadG1_isSome (r : Nat → Word) : (loadG1 r).isSome ↔ CanonicalWords r 2 := by
  rw [show 2 = 1 + 1 from rfl, canonicalWords_add, ← loadFp_isSome, ← loadFp_isSome, loadG1]
  cases loadFp r <;> cases loadFp (fun k => r (k + 1)) <;> simp

theorem loadG2_isSome (r : Nat → Word) : (loadG2 r).isSome ↔ CanonicalWords r 4 := by
  rw [show 4 = 2 + 2 from rfl, canonicalWords_add, ← loadFp2_isSome, ← loadFp2_isSome, loadG2]
  cases loadFp2 r <;> cases loadFp2 (fun k => r (k + 2)) <;> simp

/-! ### Bodies that check in order -/

/-- A fault that is none of the two that the operand checks raise. -/
abbrev LateFault (r : Raise) : Prop := r.code ≠ .badOperand ∧ r.code ≠ .nonCanonicalOperand

/-- The error of a decoder is neither of the two faults. -/
theorem DecodeError.lateFault {e : ErrCode} (h : DecodeError e) (info : BusWord) : LateFault ⟨e, info⟩ := by
  rcases h with rfl | rfl | rfl <;> exact ⟨nofun, nofun⟩

theorem checkPoint_lateFaults (valid : Bool) : Cmd.FaultsIn LateFault (checkPoint valid) :=
  checkPoint_faults ⟨nofun, nofun⟩ valid

/-- The body refuses operands that are not `placed` with BadOperand, placed operands that are not `canon` with
NonCanonicalOperand, and raises neither for any other (R403). -/
structure Cmd.Checked {α : Type} (placed canon : Prop) (c : Cmd α) : Prop where
  badOperand : ¬placed → c = .error ⟨.badOperand, 0⟩
  nonCanonical : placed → ¬canon → c = .error ⟨.nonCanonicalOperand, 0⟩
  late : placed → canon → Cmd.FaultsIn LateFault c

namespace Cmd.Checked

variable {α β : Type} {placed placed' canon canon' : Prop} {c : Cmd α}

/-- After all checks. -/
theorem done (h : Cmd.FaultsIn LateFault c) : Cmd.Checked True True c :=
  ⟨fun hp => absurd trivial hp, fun _ hc => absurd trivial hc, fun _ _ => h⟩

theorem congr (h : Cmd.Checked placed canon c) (hp : placed ↔ placed') (hc : canon ↔ canon') :
    Cmd.Checked placed' canon' c :=
  propext hp ▸ propext hc ▸ h

/-- A check of an operand's place, before all others. -/
theorem place {q : Prop} [Decidable q] (h : Cmd.Checked placed canon c) :
    Cmd.Checked (q ∧ placed) canon (if q then c else .raise .badOperand) := by
  by_cases hq : q
  · simpa only [hq, true_and, if_true] using h
  · rw [if_neg hq]
    exact ⟨fun _ => rfl, fun hp => absurd hp.1 hq, fun hp => absurd hp.1 hq⟩

theorem range {x : Idx} {w : Nat} {f : Unit → Cmd α} (h : Cmd.Checked placed canon (f ())) :
    Cmd.Checked (fits x w = true ∧ placed) canon (checkRange x w >>= f) := by
  have hif : (checkRange x w >>= f) = if fits x w = true then f () else .raise .badOperand := by
    rw [checkRange]; split <;> rfl
  rw [hif]
  exact h.place

theorem disjoint {d a : Idx} {f : Unit → Cmd α} (h : Cmd.Checked placed canon (f ())) :
    Cmd.Checked (lineDisjoint d a = true ∧ placed) canon (checkLineOverlap d a >>= f) := by
  have hif : (checkLineOverlap d a >>= f) = if lineDisjoint d a = true then f () else .raise .badOperand := by
    rw [checkLineOverlap]; split <;> rfl
  rw [hif]
  exact h.place

/-- The canonical check of an operand, before those of later operands. -/
theorem load {o : Option β} {f : β → Cmd α} (h : ∀ v, Cmd.Checked True canon (f v)) :
    Cmd.Checked True (o.isSome = true ∧ canon) (canonical o >>= f) := by
  cases o with
  | some v => exact (h v).congr Iff.rfl (by simp)
  | none => exact ⟨fun hp => absurd trivial hp, fun _ _ => rfl, fun _ hc => by simp at hc⟩

/-- What follows a checked part raises neither fault. -/
theorem bind {f : α → Cmd β} (h : Cmd.Checked placed canon c) (hf : ∀ v, Cmd.FaultsIn LateFault (f v)) :
    Cmd.Checked placed canon (c >>= f) where
  badOperand hp := by rw [h.badOperand hp]; rfl
  nonCanonical hp hc := by rw [h.nonCanonical hp hc]; rfl
  late hp hc := (h.late hp hc).bind hf

end Cmd.Checked

/-! ### The command shapes -/

section Shapes

variable {α : Type} {l : Layout α} {d a b : Idx} {s : State}

/-- The layout's loader gives an element exactly where the words are canonical. -/
abbrev LoadsCanonical (l : Layout α) : Prop := ∀ r, (l.load r).isSome ↔ CanonicalWords r l.width

theorem binaryCmd_checked (hl : LoadsCanonical l) {f : α → α → α} :
    Cmd.Checked (fits d l.width && fits a l.width && fits b l.width)
      (CanonicalWords (s.operand a) l.width ∧ CanonicalWords (s.operand b) l.width) (binaryCmd l f d a b s) :=
  Cmd.Checked.congr (.range <| .range <| .range <| .load fun _ => .load fun _ => .done (.ok _))
    (by simp [and_assoc]) (by simp [hl _])

theorem unaryCmd_checked (hl : LoadsCanonical l) {f : α → α} :
    Cmd.Checked (fits d l.width && fits a l.width) (CanonicalWords (s.operand a) l.width) (unaryCmd l f d a s) :=
  Cmd.Checked.congr (.range <| .range <| .load fun _ => .done (.ok _)) (by simp) (by simp [hl _])

theorem nonzeroCmd_checked [DecidableEq α] (hl : LoadsCanonical l) {f : α → α} :
    Cmd.Checked (fits d l.width && fits a l.width) (CanonicalWords (s.operand a) l.width) (nonzeroCmd l f d a s) :=
  Cmd.Checked.congr
    (.range <| .range <| .load fun _ => .done (.ite (fun _ => .error ⟨nofun, nofun⟩) fun _ => .ok _))
    (by simp) (by simp [hl _])

theorem equalCmd_checked [DecidableEq α] (hl : LoadsCanonical l) :
    Cmd.Checked (fits a l.width && fits b l.width)
      (CanonicalWords (s.operand a) l.width ∧ CanonicalWords (s.operand b) l.width) (equalCmd l a b s) :=
  Cmd.Checked.congr (.range <| .range <| .load fun _ => .load fun _ => .done (.ok _)) (by simp) (by simp [hl _])

theorem g1ChkCmd_checked : Cmd.Checked (fits a 2) (CanonicalWords (s.operand a) 2) (g1ChkCmd a s) :=
  Cmd.Checked.congr (.range <| .load fun _ => .done (.ok _)) (by simp) (by simp [loadG1_isSome])

theorem g2TestCmd_checked {test : G2 → Bool} :
    Cmd.Checked (fits a 4) (CanonicalWords (s.operand a) 4) (g2TestCmd test a s) :=
  Cmd.Checked.congr (.range <| .load fun _ => .done (.ok _)) (by simp) (by simp [loadG2_isSome])

theorem decG1Cmd_checked : Cmd.Checked (fits d 2 && fits a 2) True (decG1Cmd d a s) :=
  Cmd.Checked.congr
    (.range <| .range <| .done <| .bind
      (decoded_faults fun _ he => DecodeError.lateFault ((decodeG1_error he).imp_right .inl) 0) fun _ => .ok _)
    (by simp) Iff.rfl

theorem decG2Cmd_checked : Cmd.Checked (fits d 4 && fits a 4) True (decG2Cmd d a s) :=
  Cmd.Checked.congr
    (.range <| .range <| .done <| .bind (decoded_faults fun _ he => (decodeG2_error he).lateFault 0) fun _ => .ok _)
    (by simp) Iff.rfl

theorem pairOperands_checked :
    Cmd.Checked True (CanonicalWords (s.operand a) 2 ∧ CanonicalWords (s.operand b) 4) (pairOperands a b s) :=
  Cmd.Checked.congr
    (.load fun _ => .load fun _ => .done <| .bind (checkPoint_lateFaults _) fun _ =>
      .bind (checkPoint_lateFaults _) fun _ => .ok _)
    Iff.rfl (by simp [loadG1_isSome, loadG2_isSome])

theorem pairCmd_checked {f : G1 → G2 → Fp12} :
    Cmd.Checked (fits d 12 && fits a 2 && fits b 4)
      (CanonicalWords (s.operand a) 2 ∧ CanonicalWords (s.operand b) 4) (pairCmd f d a b s) :=
  Cmd.Checked.congr (.range <| .range <| .range <| pairOperands_checked.bind fun _ => .ok _)
    (by simp [and_assoc]) Iff.rfl

theorem accPairCmd_checked :
    Cmd.Checked (fits a 2 && fits b 4) (CanonicalWords (s.operand a) 2 ∧ CanonicalWords (s.operand b) 4)
      (accPairCmd a b s) :=
  Cmd.Checked.congr (.range <| .range <| pairOperands_checked.bind fun _ => .ok _) (by simp) Iff.rfl

theorem lineDblCmd_checked :
    Cmd.Checked (fits d 12 && fits a 4 && fits b 2 && lineDisjoint d a)
      (CanonicalWords (s.operand a) 4 ∧ CanonicalWords (s.operand b) 2) (lineDblCmd d a b s) :=
  Cmd.Checked.congr
    (.range <| .range <| .range <| .disjoint <| .load fun _ => .load fun _ => .done <|
      .bind (checkPoint_lateFaults _) fun _ => .bind (checkPoint_lateFaults _) fun _ => .ok _)
    (by simp [and_assoc]) (by simp [loadG1_isSome, loadG2_isSome])

/-- T and Q of LINE_ADD lie in eight words in a row (R271). -/
theorem lineAddCmd_checked :
    Cmd.Checked (fits d 12 && fits a 8 && fits b 2 && lineDisjoint d a)
      (CanonicalWords (s.operand a) 8 ∧ CanonicalWords (s.operand b) 2) (lineAddCmd d a b s) :=
  Cmd.Checked.congr
    (.range <| .range <| .range <| .disjoint <| .load fun _ => .load fun _ => .load fun _ => .done <|
      .bind (checkPoint_lateFaults _) fun _ => .bind (checkPoint_lateFaults _) fun _ =>
      .bind (checkPoint_lateFaults _) fun _ => .ok _)
    (by simp [and_assoc])
    (by simp [loadG1_isSome, loadG2_isSome, and_assoc, canonicalWords_add (r := s.operand a) (m := 4) (n := 4)])

theorem ldibCmd_checked {k : BitVec 16} :
    Cmd.Checked (fits d 1 && limbFits s.maxPairs k) True (ldibCmd d k s) :=
  Cmd.Checked.congr (.range <| .place <| .done (.ok _)) (by simp) Iff.rfl

theorem accStoreCmd_checked : Cmd.Checked (fits d 12) True (accStoreCmd d s) :=
  Cmd.Checked.congr (.range <| .done (.ok _)) (by simp) Iff.rfl

/-- EVALUATE raises errors of its own and of the decoders. -/
theorem evaluateCmd_checked : Cmd.Checked True True (evaluateCmd s) :=
  .done <| evaluateCmd_faults s ⟨nofun, nofun⟩ ⟨nofun, nofun⟩ fun _ _ ⟨hcode, _⟩ => hcode.lateFault _

end Shapes

/-! ### Every command -/

/-- Every word that the command reads as a field element is canonical (R121, R161). -/
def CanonicalOperands (i : Instr) (s : State) : Prop :=
  ∀ r ∈ canonicalRanges i, CanonicalWords (fun k => s.word (r.1 + k)) r.2

theorem not_canonicalOperands_iff {i : Instr} {s : State} :
    ¬CanonicalOperands i s ↔ ∃ r ∈ canonicalRanges i, ∃ k < r.2, p ≤ (s.word (r.1 + k)).toNat := by
  simp [CanonicalOperands, CanonicalWords]

section Ranges

variable {i : Instr} {s : State} {a b : Idx} {w w' : Nat}

theorem canonicalOperands_of_none (h : canonicalRanges i = []) : True ↔ CanonicalOperands i s := by
  simp [CanonicalOperands, h]

theorem canonicalOperands_of_one (h : canonicalRanges i = [(a.toNat, w)]) :
    CanonicalWords (s.operand a) w ↔ CanonicalOperands i s := by
  simp only [CanonicalOperands, h, List.forall_mem_singleton]
  rfl

theorem canonicalOperands_of_two (h : canonicalRanges i = [(a.toNat, w), (b.toNat, w')]) :
    CanonicalWords (s.operand a) w ∧ CanonicalWords (s.operand b) w' ↔ CanonicalOperands i s := by
  simp only [CanonicalOperands, h, List.forall_mem_cons, List.not_mem_nil, false_implies, implies_true, and_true]
  rfl

end Ranges

/-- Every command checks where its operands lie, then that their words are canonical, and then raises neither fault. -/
theorem body_checked (i : Instr) (s : State) :
    Cmd.Checked (i.wellFormed s.maxPairs) (CanonicalOperands i s) (body i s) := by
  cases i with
  | nop | accInit | accCheck => exact .congr (.done (.ok _)) (iff_of_true trivial rfl) (canonicalOperands_of_none rfl)
  | evaluate => exact evaluateCmd_checked.congr (iff_of_true trivial rfl) (canonicalOperands_of_none rfl)
  | ldib => exact ldibCmd_checked.congr Iff.rfl (canonicalOperands_of_none rfl)
  | fpAdd | fpSub | fpMul => exact (binaryCmd_checked loadFp_isSome).congr Iff.rfl (canonicalOperands_of_two rfl)
  | fpNeg => exact (unaryCmd_checked loadFp_isSome).congr Iff.rfl (canonicalOperands_of_one rfl)
  | fpInv => exact (nonzeroCmd_checked loadFp_isSome).congr Iff.rfl (canonicalOperands_of_one rfl)
  | fpEq => exact (equalCmd_checked loadFp_isSome).congr Iff.rfl (canonicalOperands_of_two rfl)
  | fp2Add | fp2Sub | fp2Mul => exact (binaryCmd_checked loadFp2_isSome).congr Iff.rfl (canonicalOperands_of_two rfl)
  | fp2Neg => exact (unaryCmd_checked loadFp2_isSome).congr Iff.rfl (canonicalOperands_of_one rfl)
  | fp2Inv => exact (nonzeroCmd_checked loadFp2_isSome).congr Iff.rfl (canonicalOperands_of_one rfl)
  | fp2Eq => exact (equalCmd_checked loadFp2_isSome).congr Iff.rfl (canonicalOperands_of_two rfl)
  | fp6Add | fp6Sub | fp6Mul => exact (binaryCmd_checked loadFp6_isSome).congr Iff.rfl (canonicalOperands_of_two rfl)
  | fp6Neg => exact (unaryCmd_checked loadFp6_isSome).congr Iff.rfl (canonicalOperands_of_one rfl)
  | fp6Inv => exact (nonzeroCmd_checked loadFp6_isSome).congr Iff.rfl (canonicalOperands_of_one rfl)
  | fp6Eq => exact (equalCmd_checked loadFp6_isSome).congr Iff.rfl (canonicalOperands_of_two rfl)
  | fp12Add | fp12Sub | fp12Mul =>
    exact (binaryCmd_checked loadFp12_isSome).congr Iff.rfl (canonicalOperands_of_two rfl)
  | fp12Neg => exact (unaryCmd_checked loadFp12_isSome).congr Iff.rfl (canonicalOperands_of_one rfl)
  | fp12Inv | finexp => exact (nonzeroCmd_checked loadFp12_isSome).congr Iff.rfl (canonicalOperands_of_one rfl)
  | fp12Eq => exact (equalCmd_checked loadFp12_isSome).congr Iff.rfl (canonicalOperands_of_two rfl)
  | decG1 => exact decG1Cmd_checked.congr Iff.rfl (canonicalOperands_of_none rfl)
  | decG2 => exact decG2Cmd_checked.congr Iff.rfl (canonicalOperands_of_none rfl)
  | g1Chk => exact g1ChkCmd_checked.congr Iff.rfl (canonicalOperands_of_one rfl)
  | g2Chk | g2Subgrp => exact g2TestCmd_checked.congr Iff.rfl (canonicalOperands_of_one rfl)
  | lineDbl => exact lineDblCmd_checked.congr Iff.rfl (canonicalOperands_of_two rfl)
  | lineAdd => exact lineAddCmd_checked.congr Iff.rfl (canonicalOperands_of_two rfl)
  | miller | pair => exact pairCmd_checked.congr Iff.rfl (canonicalOperands_of_two rfl)
  | accPair => exact accPairCmd_checked.congr Iff.rfl (canonicalOperands_of_two rfl)
  | accStore => exact accStoreCmd_checked.congr Iff.rfl (canonicalOperands_of_none rfl)

/-! ### The completion step -/

theorem exec_of_body_error {i : Instr} {s : State} {r : Raise} (h : body i s = .error r) :
    exec i s = .next (s.raise r) := by
  rw [exec_eq_finish, h, finish_error]

/-- A body that raises a fault ends with it, as R400 has it. -/
theorem completes_faulted {i : Instr} {s : State} {e : ErrCode} {info : BusWord} (h : body i s = .error ⟨e, info⟩) :
    Completes i s fun t => Faulted s t e info :=
  ⟨_, exec_of_body_error h, faulted_raise s _⟩

/-- A command whose body raises neither fault reports neither. -/
theorem errCode_of_lateFaults {i : Instr} {s t : State} (h : Cmd.FaultsIn LateFault (body i s))
    (ht : exec i s = .next t) : t.errCode ≠ .badOperand ∧ t.errCode ≠ .nonCanonicalOperand := by
  rw [exec_eq_finish] at ht
  rcases finish_cases ht with ⟨e, -, rfl⟩ | ⟨r, hr, rfl⟩
  · exact ⟨nofun, nofun⟩
  · exact h r hr

/-- Settles O12: the places of the operands are checked first, and no later fault is BadOperand. -/
theorem badOperandExactlyForIllFormedCommands : Obligations.BadOperandExactlyForIllFormedCommands := by
  intro i s
  have hchecked := body_checked i s
  refine ⟨fun hill => completes_faulted (hchecked.badOperand (by simp [hill])), fun hwf t ht => ?_⟩
  by_cases hcanon : CanonicalOperands i s
  · exact (errCode_of_lateFaults (hchecked.late hwf hcanon) ht).1
  · rw [exec_of_body_error (hchecked.nonCanonical hwf hcanon)] at ht
    cases ht
    exact nofun

/-- Settles O13: for a well-formed command the words are checked next, and no later fault is NonCanonicalOperand. -/
theorem nonCanonicalExactlyForLargeWords : Obligations.NonCanonicalExactlyForLargeWords := by
  intro i s hwf
  have hchecked := body_checked i s
  rw [← not_canonicalOperands_iff]
  constructor
  · intro hlarge
    exact completes_faulted (hchecked.nonCanonical hwf hlarge)
  · rintro ⟨t, ht, hfault⟩ hcanon
    exact (errCode_of_lateFaults (hchecked.late hwf hcanon) ht).2 hfault.errCode

end Sys2Proof.Machine
end

section
/-! SUPPORT. The layouts of the fields: the words that hold an element are the words that are stored for it, and zero is
the element of the all-zero words (10_state.md R23, 40_field_fp.md R120, R121). -/

namespace Sys2Proof.Machine

/-! ### Several words in a row -/

/-- The words that `r` gives for the offsets 0 to `w - 1`, in ascending index. -/
def firstWords (r : Nat → Word) (w : Nat) : List Word := (List.range w).map r

@[simp] theorem length_firstWords (r : Nat → Word) (w : Nat) : (firstWords r w).length = w := by simp [firstWords]

theorem getElem_firstWords {r : Nat → Word} {w k : Nat} (h : k < (firstWords r w).length) :
    (firstWords r w)[k] = r k := by
  simp [firstWords]

theorem firstWords_one (r : Nat → Word) : firstWords r 1 = [r 0] := rfl

theorem firstWords_add (r : Nat → Word) (m n : Nat) :
    firstWords r (m + n) = firstWords r m ++ firstWords (fun k => r (k + m)) n := by
  simp [firstWords, List.range_add, Function.comp_def, Nat.add_comm]

theorem firstWords_eq_iff {r r' : Nat → Word} {w : Nat} :
    firstWords r w = firstWords r' w ↔ ∀ k < w, r k = r' k := by
  simp [firstWords]

/-- Words in a row are two stored parts if each part is stored in its own words. -/
theorem firstWords_add_eq_append {r : Nat → Word} {m n : Nat} {xs ys : List Word} (hxs : xs.length = m) :
    firstWords r (m + n) = xs ++ ys ↔ firstWords r m = xs ∧ firstWords (fun k => r (k + m)) n = ys := by
  rw [firstWords_add]
  constructor
  · intro h
    exact List.append_inj h (by simp [hxs])
  · rintro ⟨rfl, rfl⟩
    rfl

/-! ### Loading an element is finding its stored words -/

theorem loadFp_iff_firstWords {r : Nat → Word} {x : Fp} : loadFp r = some x ↔ firstWords r 1 = storeFp x := by
  simp [loadFp_eq_some, firstWords_one, storeFp, BitVec.toNat_eq]

theorem loadFp2_iff_firstWords {r : Nat → Word} {x : Fp2} : loadFp2 r = some x ↔ firstWords r 2 = storeFp2 x := by
  simp [loadFp2_eq_some, firstWords_add r 1 1, firstWords_one, storeFp2, BitVec.toNat_eq]

theorem loadFp6_iff_firstWords {r : Nat → Word} {x : Fp6} : loadFp6 r = some x ↔ firstWords r 6 = storeFp6 x := by
  rw [loadFp6_eq_some, loadFp2_iff_firstWords, loadFp2_iff_firstWords, loadFp2_iff_firstWords, storeFp6,
    firstWords_add_eq_append (m := 2 + 2) (n := 2) rfl, firstWords_add_eq_append (m := 2) rfl, and_assoc]

theorem loadFp12_iff_firstWords {r : Nat → Word} {x : Fp12} :
    loadFp12 r = some x ↔ firstWords r 12 = storeFp12 x := by
  rw [loadFp12_eq_some, loadFp6_iff_firstWords, loadFp6_iff_firstWords, storeFp12,
    firstWords_add_eq_append (m := 6) (n := 6) rfl]

/-! ### The four layouts -/

/-- The laws of a layout: an element has `width` words, canonical words hold an element (R121), words hold the element
whose words they are, and zero is all words 0. -/
structure Layout.Lawful {α : Type} (l : Layout α) : Prop where
  length_store : ∀ x, (l.store x).length = l.width
  loads_canonical : LoadsCanonical l
  load_iff : ∀ {r x}, l.load r = some x ↔ firstWords r l.width = l.store x
  store_zero : l.store l.zero = List.replicate l.width 0

theorem fpLayout_lawful : fpLayout.Lawful := ⟨length_storeFp, loadFp_isSome, loadFp_iff_firstWords, rfl⟩

theorem fp2Layout_lawful : fp2Layout.Lawful := ⟨length_storeFp2, loadFp2_isSome, loadFp2_iff_firstWords, rfl⟩

theorem fp6Layout_lawful : fp6Layout.Lawful := ⟨length_storeFp6, loadFp6_isSome, loadFp6_iff_firstWords, rfl⟩

theorem fp12Layout_lawful : fp12Layout.Lawful := ⟨length_storeFp12, loadFp12_isSome, loadFp12_iff_firstWords, rfl⟩

section

variable {α : Type} {l : Layout α} (hl : l.Lawful) {s : State} {a : Idx}

include hl

/-- Canonical words hold an element. -/
theorem Layout.Lawful.exists_load (ha : CanonicalAt s a l.width) : ∃ x, l.load (s.operand a) = some x :=
  Option.isSome_iff_exists.mp ((hl.loads_canonical _).mpr ha.2)

/-- Words that are all 0 hold zero. -/
theorem Layout.Lawful.load_zero {r : Nat → Word} (h : ∀ k < l.width, r k = 0) : l.load r = some l.zero := by
  rw [hl.load_iff, hl.store_zero, List.eq_replicate_iff]
  simpa [firstWords] using h

/-- Two operands hold the same element exactly when their words agree (R123). -/
theorem Layout.Lawful.load_inj {r r' : Nat → Word} {x y : α} (hx : l.load r = some x) (hy : l.load r' = some y) :
    x = y ↔ ∀ k < l.width, r k = r' k := by
  rw [← firstWords_eq_iff, hl.load_iff.mp hx]
  constructor
  · rintro rfl
    exact (hl.load_iff.mp hy).symm
  · intro h
    exact Option.some.inj ((hl.load_iff.mpr h.symm).symm.trans hy)

end

end Sys2Proof.Machine
end

section
/-! SUPPORT. What a field command that completes leaves: its value in the destination words, the report, and nothing
else (30_encoding.md R96, R97). -/

namespace Sys2Proof.Machine

/-! ### The completion of a command without a fault -/

theorem exec_of_body_ok {i : Instr} {s : State} {e : Effect} (h : body i s = .ok e) :
    exec i s = .next (s.complete e) := by
  rw [exec_eq_finish, h, finish_ok]

/-- A completion changes the words of its effect, ACC if the effect gives one, and the report. -/
theorem ran_complete (s : State) (e : Effect) :
    Ran s (s.complete e) (e.writes.map fun w => (w.1, w.2.length)) e.result where
  busy := rfl
  done := rfl
  err := rfl
  errCode := rfl
  errInfo := rfl
  result := rfl
  scratch _ hk := s.word_applyWrites_of_outside e.writes fun _ hw => hk _ (List.mem_map_of_mem hw)
  rest := untouched_complete s e

/-- The words that a completion wrote at one destination inside the file are those of its effect. -/
theorem firstWords_complete (s : State) {d : Idx} {ws : List Word} (hd : InFile d ws.length) :
    firstWords ((s.complete { writes := [(d.toNat, ws)] }).operand d) ws.length = ws := by
  refine List.ext_getElem (length_firstWords _ _) fun k _ hk => ?_
  rw [getElem_firstWords]
  show (s.setWords d.toNat ws).word (d.toNat + k) = ws[k]
  rw [s.word_setWords _ _ hd, if_pos (by omega)]
  simp [hk]

/-- A command ran from `s` to `t` and left the words `ws` at `d`, and nothing else but the report. -/
structure RanWriting (s t : State) (d : Idx) (ws : List Word) : Prop where
  dest : firstWords (t.operand d) ws.length = ws
  acc : t.acc = s.acc
  ran : Ran s t [(d.toNat, ws.length)] false

theorem completes_ranWriting {i : Instr} {s : State} {d : Idx} {ws : List Word} (hd : InFile d ws.length)
    (h : body i s = .ok { writes := [(d.toNat, ws)] }) : Completes i s fun t => RanWriting s t d ws :=
  ⟨_, exec_of_body_ok h, firstWords_complete s hd, rfl, ran_complete s _⟩

theorem Completes.imp {i : Instr} {s : State} {P Q : State → Prop} (h : Completes i s P) (hPQ : ∀ t, P t → Q t) :
    Completes i s Q := by
  obtain ⟨t, ht, hP⟩ := h
  exact ⟨t, ht, hPQ t hP⟩

/-! ### The command shapes on operands that pass the checks -/

section Shapes

variable {α : Type} {l : Layout α} (hl : l.Lawful) {i : Instr} {s : State} {d a b : Idx} {x y : α}

theorem completes_nonzeroCmd_zero [DecidableEq α] {f : α → α} (hi : body i s = nonzeroCmd l f d a s)
    (hd : InFile d l.width) (ha : InFile a l.width) (hx : l.load (s.operand a) = some l.zero) :
    Completes i s fun t => Faulted s t .inverseOfZero 0 :=
  completes_faulted (by rw [hi, nonzeroCmd_eq]; simp [fits_iff.mpr hd, fits_iff.mpr ha, hx])

theorem completes_equalCmd [DecidableEq α] (hi : body i s = equalCmd l a b s) (ha : InFile a l.width)
    (hb : InFile b l.width) (hx : l.load (s.operand a) = some x) (hy : l.load (s.operand b) = some y) :
    Completes i s fun t => t.result = decide (x = y) ∧ t.acc = s.acc ∧ Ran s t [] t.result := by
  have hbody : body i s = .ok { result := decide (x = y) } := by
    rw [hi, equalCmd_eq]; simp [fits_iff.mpr ha, fits_iff.mpr hb, hx, hy]
  exact ⟨_, exec_of_body_ok hbody, rfl, rfl, ran_complete s _⟩

include hl

theorem completes_binaryCmd {f : α → α → α} (hi : body i s = binaryCmd l f d a b s) (hd : InFile d l.width)
    (ha : InFile a l.width) (hb : InFile b l.width) (hx : l.load (s.operand a) = some x)
    (hy : l.load (s.operand b) = some y) : Completes i s fun t => RanWriting s t d (l.store (f x y)) :=
  completes_ranWriting (by rwa [hl.length_store])
    (by rw [hi, binaryCmd_eq]; simp [fits_iff.mpr hd, fits_iff.mpr ha, fits_iff.mpr hb, hx, hy])

theorem completes_unaryCmd {f : α → α} (hi : body i s = unaryCmd l f d a s) (hd : InFile d l.width)
    (ha : InFile a l.width) (hx : l.load (s.operand a) = some x) :
    Completes i s fun t => RanWriting s t d (l.store (f x)) :=
  completes_ranWriting (by rwa [hl.length_store])
    (by rw [hi, unaryCmd_eq]; simp [fits_iff.mpr hd, fits_iff.mpr ha, hx])

theorem completes_nonzeroCmd [DecidableEq α] {f : α → α} (hi : body i s = nonzeroCmd l f d a s)
    (hd : InFile d l.width) (ha : InFile a l.width) (hx : l.load (s.operand a) = some x) (hne : x ≠ l.zero) :
    Completes i s fun t => RanWriting s t d (l.store (f x)) :=
  completes_ranWriting (by rwa [hl.length_store])
    (by rw [hi, nonzeroCmd_eq]; simp [fits_iff.mpr hd, fits_iff.mpr ha, hx, hne])

end Shapes

end Sys2Proof.Machine
end

section
/-! SUPPORT. The arithmetic that goes word by word: addition, subtraction and negation of the tower act on each stored
word as those of Fp (41_field_ext.md R162 to R164), and so do their commands; comparison and the refusal of zero are
facts of the words too (40_field_fp.md R123, R128). -/

namespace Sys2Proof.Machine

/-! ### Operations that act on each word -/

/-- The words of `f x y` are, one by one, `g` of the words of `x` and `y`. -/
def Wordwise {α : Type} (store : α → List Word) (f : α → α → α) (g : Nat → Nat → Nat) : Prop :=
  ∀ x y, (store (f x y)).map BitVec.toNat = List.zipWith g ((store x).map BitVec.toNat) ((store y).map BitVec.toNat)

/-- The words of `f x` are, one by one, `g` of the words of `x`. -/
def Wordwise1 {α : Type} (store : α → List Word) (f : α → α) (g : Nat → Nat) : Prop :=
  ∀ x, (store (f x)).map BitVec.toNat = ((store x).map BitVec.toNat).map g

theorem storeFp2_eq_append (x : Fp2) : storeFp2 x = storeFp x.c0 ++ storeFp x.c1 := rfl

section Tower

variable {g : Nat → Nat → Nat} {g₁ : Nat → Nat}

theorem Wordwise.ofFp {f : Fp → Fp → Fp} (h : ∀ x y, (f x y).val = g x.val y.val) : Wordwise storeFp f g := by
  intro x y
  simp [storeFp, h]

theorem Wordwise.fp2 {f : Fp → Fp → Fp} (h : Wordwise storeFp f g) :
    Wordwise storeFp2 (fun x y => ⟨f x.c0 y.c0, f x.c1 y.c1⟩) g := by
  intro x y
  simp only [storeFp2_eq_append, List.map_append, h _ _]
  rw [List.zipWith_append (by simp)]

theorem Wordwise.fp6 {f : Fp2 → Fp2 → Fp2} (h : Wordwise storeFp2 f g) :
    Wordwise storeFp6 (fun x y => ⟨f x.a0 y.a0, f x.a1 y.a1, f x.a2 y.a2⟩) g := by
  intro x y
  simp only [storeFp6, List.map_append, h _ _]
  rw [List.zipWith_append (by simp), List.zipWith_append (by simp)]

theorem Wordwise.fp12 {f : Fp6 → Fp6 → Fp6} (h : Wordwise storeFp6 f g) :
    Wordwise storeFp12 (fun x y => ⟨f x.g0 y.g0, f x.g1 y.g1⟩) g := by
  intro x y
  simp only [storeFp12, List.map_append, h _ _]
  rw [List.zipWith_append (by simp)]

theorem Wordwise1.ofFp {f : Fp → Fp} (h : ∀ x, (f x).val = g₁ x.val) : Wordwise1 storeFp f g₁ := by
  intro x
  simp [storeFp, h]

theorem Wordwise1.fp2 {f : Fp → Fp} (h : Wordwise1 storeFp f g₁) :
    Wordwise1 storeFp2 (fun x => ⟨f x.c0, f x.c1⟩) g₁ := by
  intro x
  simp only [storeFp2_eq_append, List.map_append, h _]

theorem Wordwise1.fp6 {f : Fp2 → Fp2} (h : Wordwise1 storeFp2 f g₁) :
    Wordwise1 storeFp6 (fun x => ⟨f x.a0, f x.a1, f x.a2⟩) g₁ := by
  intro x
  simp only [storeFp6, List.map_append, h _]

theorem Wordwise1.fp12 {f : Fp6 → Fp6} (h : Wordwise1 storeFp6 f g₁) :
    Wordwise1 storeFp12 (fun x => ⟨f x.g0, f x.g1⟩) g₁ := by
  intro x
  simp only [storeFp12, List.map_append, h _]

end Tower

/-! ### Fp on the integers -/

theorem Fp.val_sub (x y : Fp) : (x - y).val = if y.val ≤ x.val then x.val - y.val else x.val + p - y.val := by
  split
  case isTrue h => exact Fin.sub_val_of_le h
  case isFalse h => rw [Fin.coe_sub_iff_lt.mpr (not_le.mp h), Nat.add_comm]

theorem addFp_wordwise : Wordwise storeFp (fun x y => x + y) (fun x y => (x + y) % p) := .ofFp Fin.val_add

theorem subFp_wordwise : Wordwise storeFp (fun x y => x - y) (fun x y => if y ≤ x then x - y else x + p - y) :=
  .ofFp Fp.val_sub

theorem negFp_wordwise : Wordwise1 storeFp (fun x => -x) (fun x => (p - x) % p) := .ofFp Fin.val_neg'

theorem mulFp_wordwise : Wordwise storeFp (fun x y => x * y) (fun x y => x * y % p) := .ofFp Fin.val_mul

/-- A power in the integers modulo p has as its canonical integer that power of the integers, reduced (R122). -/
theorem Fp.val_eq_pow_mod {x y : Fp} {k : Nat} (h : y.toZMod = x.toZMod ^ k) : y.val = x.val ^ k % p := by
  have hcast : ((y.val : Nat) : ZMod p) = ((x.val ^ k : Nat) : ZMod p) := by rw [Nat.cast_pow]; exact h
  rw [← (ZMod.natCast_eq_natCast_iff' _ _ _).mp hcast, Nat.mod_eq_of_lt y.isLt]

theorem Fp.val_inv (x : Fp) : x.inv.val = x.val ^ (p - 2) % p := Fp.val_eq_pow_mod (Fp.toZMod_inv_eq_pow x)

/-! ### The commands -/

section Commands

variable {α : Type} {l : Layout α} (hl : l.Lawful)

include hl

/-- The command of an operation that acts on each word does so in the scratch file. -/
theorem actsWordwise {f : α → α → α} {g : Nat → Nat → Nat} {mk : Idx → Idx → Idx → Instr}
    (hmk : ∀ d a b s, body (mk d a b) s = binaryCmd l f d a b s) (hw : Wordwise l.store f g) :
    ActsWordwise l.width mk g := by
  intro s d a b hd ha hb
  obtain ⟨x, hx⟩ := hl.exists_load ha
  obtain ⟨y, hy⟩ := hl.exists_load hb
  refine (completes_binaryCmd hl (hmk d a b s) hd ha.1 hb.1 hx hy).imp fun t ⟨hdest, hacc, hran⟩ => ?_
  rw [hl.length_store] at hdest hran
  refine ⟨fun k hk => ?_, hacc, hran⟩
  have hwords := hw x y
  rw [← hdest, ← hl.load_iff.mp hx, ← hl.load_iff.mp hy] at hwords
  simpa [firstWords, hk, State.operand] using congrArg (·[k]?) hwords

theorem actsWordwise1 {f : α → α} {g : Nat → Nat} {mk : Idx → Idx → Instr}
    (hmk : ∀ d a s, body (mk d a) s = unaryCmd l f d a s) (hw : Wordwise1 l.store f g) :
    ActsWordwise1 l.width mk g := by
  intro s d a hd ha
  obtain ⟨x, hx⟩ := hl.exists_load ha
  refine (completes_unaryCmd hl (hmk d a s) hd ha.1 hx).imp fun t ⟨hdest, hacc, hran⟩ => ?_
  rw [hl.length_store] at hdest hran
  refine ⟨fun k hk => ?_, hacc, hran⟩
  have hwords := hw x
  rw [← hdest, ← hl.load_iff.mp hx] at hwords
  simpa [firstWords, hk, State.operand] using congrArg (·[k]?) hwords

theorem comparesWords [DecidableEq α] {mk : Idx → Idx → Instr}
    (hmk : ∀ a b s, body (mk a b) s = equalCmd l a b s) : ComparesWords l.width mk := by
  intro s a b ha hb
  obtain ⟨x, hx⟩ := hl.exists_load ha
  obtain ⟨y, hy⟩ := hl.exists_load hb
  refine (completes_equalCmd (hmk a b s) ha.1 hb.1 hx hy).imp fun t ⟨hresult, hacc, hran⟩ => ⟨?_, hacc, hran⟩
  rw [hresult, decide_eq_true_iff]
  exact hl.load_inj hx hy

theorem refusesZero [DecidableEq α] {f : α → α} {mk : Idx → Idx → Instr}
    (hmk : ∀ d a s, body (mk d a) s = nonzeroCmd l f d a s) : RefusesZero l.width mk :=
  fun s d a hd ha hzero => completes_nonzeroCmd_zero (hmk d a s) hd ha (hl.load_zero hzero)

end Commands

/-- Settles O14: all-zero words hold the zero of each layout, which the inversions and FINEXP refuse. -/
theorem inversionRefusesZero : Obligations.InversionRefusesZero :=
  ⟨refusesZero fpLayout_lawful fun _ _ _ => rfl, refusesZero fp2Layout_lawful fun _ _ _ => rfl,
    refusesZero fp6Layout_lawful fun _ _ _ => rfl, refusesZero fp12Layout_lawful fun _ _ _ => rfl,
    refusesZero fp12Layout_lawful fun _ _ _ => rfl⟩

/-- Settles O22: addition in Fp is that of the integers modulo p, and each level of the tower adds by parts. -/
theorem addIsWordwiseModP : Obligations.AddIsWordwiseModP :=
  ⟨actsWordwise fpLayout_lawful (fun _ _ _ _ => rfl) addFp_wordwise,
    actsWordwise fp2Layout_lawful (fun _ _ _ _ => rfl) addFp_wordwise.fp2,
    actsWordwise fp6Layout_lawful (fun _ _ _ _ => rfl) addFp_wordwise.fp2.fp6,
    actsWordwise fp12Layout_lawful (fun _ _ _ _ => rfl) addFp_wordwise.fp2.fp6.fp12⟩

/-- Settles O23: as for addition, with the difference by R125. -/
theorem subIsWordwiseModP : Obligations.SubIsWordwiseModP :=
  ⟨actsWordwise fpLayout_lawful (fun _ _ _ _ => rfl) subFp_wordwise,
    actsWordwise fp2Layout_lawful (fun _ _ _ _ => rfl) subFp_wordwise.fp2,
    actsWordwise fp6Layout_lawful (fun _ _ _ _ => rfl) subFp_wordwise.fp2.fp6,
    actsWordwise fp12Layout_lawful (fun _ _ _ _ => rfl) subFp_wordwise.fp2.fp6.fp12⟩

/-- Settles O24: as for addition, with one operand. -/
theorem negIsWordwiseModP : Obligations.NegIsWordwiseModP :=
  ⟨actsWordwise1 fpLayout_lawful (fun _ _ _ => rfl) negFp_wordwise,
    actsWordwise1 fp2Layout_lawful (fun _ _ _ => rfl) negFp_wordwise.fp2,
    actsWordwise1 fp6Layout_lawful (fun _ _ _ => rfl) negFp_wordwise.fp2.fp6,
    actsWordwise1 fp12Layout_lawful (fun _ _ _ => rfl) negFp_wordwise.fp2.fp6.fp12⟩

/-- Settles O25: elements are equal exactly when the words that hold them are. -/
theorem eqComparesWordByWord : Obligations.EqComparesWordByWord :=
  ⟨comparesWords fpLayout_lawful fun _ _ _ => rfl, comparesWords fp2Layout_lawful fun _ _ _ => rfl,
    comparesWords fp6Layout_lawful fun _ _ _ => rfl, comparesWords fp12Layout_lawful fun _ _ _ => rfl⟩

/-- Settles O26: the product of Fp is that of the integers modulo p, and the inverse of a nonzero element its power
p - 2. -/
theorem fpMulAndInvWriteTheResidue : Obligations.FpMulAndInvWriteTheResidue := by
  refine ⟨actsWordwise fpLayout_lawful (fun _ _ _ _ => rfl) mulFp_wordwise, fun s d a ha hne => ?_⟩
  obtain ⟨x, hx⟩ := fpLayout_lawful.exists_load ha
  have hval : (s.word a.toNat).toNat = x.val := loadFp_eq_some.mp hx
  have hx0 : x ≠ Fp.zero := by
    rintro rfl
    exact hne hval
  refine (completes_nonzeroCmd (f := Fp.inv) fpLayout_lawful rfl d.isLt ha.1 hx hx0).imp
    fun t ⟨hdest, hacc, hran⟩ => ⟨?_, hacc, hran⟩
  rw [hval, ← Fp.val_inv]
  exact loadFp_eq_some.mp (loadFp_iff_firstWords.mpr hdest)

end Sys2Proof.Machine
end

section
/-! SUPPORT. The tower of 41_field_ext.md R160: each level of the model embeds in the ring that R160 names, over the
integers modulo p, and each of these rings is a field. -/

namespace Sys2Proof.Machine

/-! ### Fp in the integers modulo p -/

namespace Fp

@[simp] theorem toZMod_add (a b : Fp) : (a + b).toZMod = a.toZMod + b.toZMod := by simp [toZMod, Fin.val_add]

@[simp] theorem toZMod_neg (a : Fp) : (-a).toZMod = -a.toZMod := by
  simp [toZMod, Fin.val_neg', Nat.cast_sub a.isLt.le]

@[simp] theorem toZMod_sub (a b : Fp) : (a - b).toZMod = a.toZMod - b.toZMod := by
  simp [toZMod, Fin.sub_def, Nat.cast_sub b.isLt.le, neg_add_eq_sub]

/-- The canonical integer of an element that is the class of the integer `n` is `n` reduced (R122). -/
theorem val_eq_emod {a : Fp} {n : Int} (h : a.toZMod = n) : (a.val : Int) = n % p := by
  have hcast : (((a.val : Nat) : Int) : ZMod p) = (n : ZMod p) := by rw [Int.cast_natCast]; exact h
  rw [← (ZMod.intCast_eq_intCast_iff' _ _ _).mp hcast, ← Int.natCast_mod, Nat.mod_eq_of_lt a.isLt]

end Fp

/-- Euler's criterion, in the direction that needs no generator: a class other than 0 whose power `(p - 1) / k` is not 1
is no `k`-th power. -/
theorem pow_ne_natCast {a k : Nat} (hk : k ∣ p - 1) (ha : ¬p ∣ a) (h : powMod p a ((p - 1) / k) % p ≠ 1 % p)
    (y : ZMod p) : y ^ k ≠ a := by
  have : Fact p.Prime := ⟨prime_p⟩
  intro hy
  have hy0 : y ≠ 0 := by
    rintro rfl
    have hk0 : k ≠ 0 := ne_zero_of_dvd_ne_zero (by decide) hk
    exact ha ((ZMod.natCast_eq_zero_iff a p).mp (by rw [← hy, zero_pow hk0]))
  refine h ((powMod_mod_eq_one_iff p a ((Nat.div_le_self _ _).trans_lt (by decide))).mpr ?_)
  rw [← hy, ← pow_mul, Nat.mul_div_cancel' hk, ZMod.pow_card_sub_one_eq_one hy0]

/-- No square is -1, since p is 3 modulo 4 (R160). -/
theorem sq_ne_neg_one (y : ZMod p) : y ^ 2 ≠ -1 := by
  have : Fact p.Prime := ⟨prime_p⟩
  exact fun hy => ZMod.mod_four_ne_three_of_sq_eq_neg_one hy (by decide)

/-- 82 = 9² + 1², the norm of ξ, is neither a square nor a cube. -/
theorem sq_ne_82 (y : ZMod p) : y ^ 2 ≠ 82 :=
  pow_ne_natCast (a := 82) (by decide) (by decide) (by decide +kernel) y

theorem cube_ne_82 (y : ZMod p) : y ^ 3 ≠ 82 :=
  pow_ne_natCast (a := 82) (by decide) (by decide) (by decide +kernel) y

/-! ### Embedding a level of the model -/

/-- `f` embeds the elements with the product `mul` and the identity `one` in the commutative monoid `M`. -/
structure Embeds {α M : Type} [CommMonoid M] (f : α → M) (mul : α → α → α) (one : α) : Prop where
  injective : Function.Injective f
  map_mul : ∀ x y, f (mul x y) = f x * f y
  map_one : f one = 1

section Embeds

variable {α M : Type} [CommMonoid M] {f : α → M} {mul : α → α → α} {one : α} (h : Embeds f mul one)

include h

theorem Embeds.comm (x y : α) : mul x y = mul y x :=
  h.injective (by rw [h.map_mul, h.map_mul, mul_comm])

theorem Embeds.assoc (x y z : α) : mul (mul x y) z = mul x (mul y z) :=
  h.injective (by simp only [h.map_mul, mul_assoc])

theorem Embeds.right_comm (x y z : α) : mul (mul x y) z = mul (mul x z) y :=
  h.injective (by simp only [h.map_mul, mul_right_comm])

theorem Embeds.right_identity (x : α) : mul x one = x :=
  h.injective (by rw [h.map_mul, h.map_one, mul_one])

/-- Only one element multiplies to 1 with `x`. -/
theorem Embeds.eq_of_mul_eq_one {x y z : α} (hy : mul x y = one) (hz : mul x z = one) : y = z := by
  have hy' : f y * f x = 1 := by rw [mul_comm, ← h.map_mul, hy, h.map_one]
  have hz' : f x * f z = 1 := by rw [← h.map_mul, hz, h.map_one]
  exact h.injective (left_inv_eq_right_inv hy' hz')

end Embeds

/-- The conjugate over the norm is the inverse in a quadratic extension, where the norm has an inverse (R162, R164). -/
theorem mul_smul_star_eq_one {R : Type} [CommRing R] {a b t : R} {z : QuadraticAlgebra R a b}
    (h : QuadraticAlgebra.norm z * t = 1) : z * (t • star z) = 1 := by
  rw [mul_smul_comm, ← QuadraticAlgebra.algebraMap_norm_eq_mul_star, Algebra.smul_def, ← map_mul, mul_comm, h, map_one]

/-! ### Fp2 -/

/-- `Fp[i] / (i² + 1)` (R160). -/
abbrev K2 : Type := QuadraticAlgebra (ZMod p) (-1) 0

/-- i² + 1 has no root in Fp, so that K2 is a field (R160). -/
theorem k2_rootless : Fact (∀ y : ZMod p, y ^ 2 ≠ -1 + 0 * y) := ⟨by simpa using sq_ne_neg_one⟩

namespace Fp2

/-- `c0 + c1·i`. -/
def toK2 (x : Fp2) : K2 := ⟨x.c0.toZMod, x.c1.toZMod⟩

theorem toK2_injective : Function.Injective toK2 := by
  rintro ⟨a0, a1⟩ ⟨b0, b1⟩ h
  obtain ⟨h0, h1⟩ := QuadraticAlgebra.ext_iff.mp h
  exact congrArg₂ Fp2.mk (Fp.toZMod_injective h0) (Fp.toZMod_injective h1)

@[simp] theorem toK2_zero : zero.toK2 = 0 := by ext <;> simp [toK2, zero]

@[simp] theorem toK2_one : one.toK2 = 1 := by
  ext <;> simp [toK2, one, QuadraticAlgebra.re_one, QuadraticAlgebra.im_one]

@[simp] theorem toK2_add (a b : Fp2) : (a.add b).toK2 = a.toK2 + b.toK2 := by ext <;> simp [toK2, add]

@[simp] theorem toK2_sub (a b : Fp2) : (a.sub b).toK2 = a.toK2 - b.toK2 := by ext <;> simp [toK2, sub]

@[simp] theorem toK2_neg (a : Fp2) : a.neg.toK2 = -a.toK2 := by ext <;> simp [toK2, neg]

@[simp] theorem toK2_mul (a b : Fp2) : (a.mul b).toK2 = a.toK2 * b.toK2 := by
  ext
  · simp [toK2, mul, sub_eq_add_neg]
  · simp [toK2, mul]

/-- `mulxi` is the product with ξ (R162). -/
@[simp] theorem toK2_mulXi (a : Fp2) : a.mulXi.toK2 = xi.toK2 * a.toK2 := by
  ext
  · simp [toK2, mulXi, xi, sub_eq_add_neg]
  · simp [toK2, mulXi, xi, add_comm]

theorem embeds : Embeds toK2 mul one := ⟨toK2_injective, toK2_mul, toK2_one⟩

theorem toK2_eq_zero_iff {a : Fp2} : a.toK2 = 0 ↔ a = zero := by
  rw [← toK2_zero]; exact toK2_injective.eq_iff

theorem norm_toK2 (a : Fp2) : QuadraticAlgebra.norm a.toK2 = a.norm.toZMod := by
  simp [QuadraticAlgebra.norm_def, toK2, norm]

theorem norm_ne_zero {a : Fp2} (ha : a ≠ zero) : a.norm ≠ Fp.zero := by
  have : Fact p.Prime := ⟨prime_p⟩
  have := k2_rootless
  rwa [ne_eq, ← Fp.toZMod_eq_zero_iff, ← norm_toK2, QuadraticAlgebra.norm_eq_zero_iff_eq_zero, toK2_eq_zero_iff]

/-- `inv2` is the conjugate over the norm. -/
theorem toK2_inv (a : Fp2) : a.inv.toK2 = a.norm.inv.toZMod • star a.toK2 := by
  ext <;> simp [toK2, inv, mul_comm]

theorem mul_inv_eq_one {a : Fp2} (ha : a ≠ zero) : a.mul a.inv = one := by
  have hnorm : QuadraticAlgebra.norm a.toK2 * a.norm.inv.toZMod = 1 := by
    rw [norm_toK2, ← Fp.toZMod_mul, Fp.mul_inv_eq_one (norm_ne_zero ha), Fp.toZMod_one]
  apply toK2_injective
  rw [toK2_mul, toK2_inv, mul_smul_star_eq_one hnorm, toK2_one]

theorem norm_xi : QuadraticAlgebra.norm xi.toK2 = 82 := by
  have hnorm : xi.norm = Fp.ofNat 82 := by decide
  rw [norm_toK2, hnorm, Fp.toZMod_ofNat, Nat.cast_ofNat]

/-- ξ is neither a square nor a cube in K2, since its norm is neither in Fp (R160). -/
theorem sq_ne_xi (y : K2) : y ^ 2 ≠ xi.toK2 := fun hy =>
  sq_ne_82 (QuadraticAlgebra.norm y) (by rw [← map_pow, hy, norm_xi])

theorem cube_ne_xi (y : K2) : y ^ 3 ≠ xi.toK2 := fun hy =>
  cube_ne_82 (QuadraticAlgebra.norm y) (by rw [← map_pow, hy, norm_xi])

end Fp2

/-! ### Cubic extensions -/

open Polynomial in
/-- `R[v] / (v³ - d)`. -/
abbrev CubicExt (R : Type) [CommRing R] (d : R) : Type := AdjoinRoot (X ^ 3 - C d : R[X])

namespace CubicExt

section Ring

variable {R : Type} [CommRing R] {d : R}

/-- `a + b·v + c·v²`. -/
noncomputable def mk (d a b c : R) : CubicExt R d :=
  AdjoinRoot.of _ a + AdjoinRoot.of _ b * AdjoinRoot.root _ + AdjoinRoot.of _ c * AdjoinRoot.root _ ^ 2

theorem mk_base (a : R) : mk d a 0 0 = AdjoinRoot.of _ a := by simp [mk]

theorem mk_root : mk d 0 1 0 = AdjoinRoot.root _ := by simp [mk]

theorem root_cubed : (AdjoinRoot.root _ : CubicExt R d) ^ 3 = AdjoinRoot.of _ d := by
  have hroot := AdjoinRoot.eval₂_root (Polynomial.X ^ 3 - Polynomial.C d)
  rwa [Polynomial.eval₂_sub, Polynomial.eval₂_pow, Polynomial.eval₂_X, Polynomial.eval₂_C, sub_eq_zero] at hroot

theorem mk_add (a b c a' b' c' : R) : mk d a b c + mk d a' b' c' = mk d (a + a') (b + b') (c + c') := by
  simp only [mk, map_add]; ring

theorem mk_sub (a b c a' b' c' : R) : mk d a b c - mk d a' b' c' = mk d (a - a') (b - b') (c - c') := by
  simp only [mk, map_sub]; ring

theorem mk_neg (a b c : R) : -mk d a b c = mk d (-a) (-b) (-c) := by
  simp only [mk, map_neg]; ring

theorem mk_mul (a b c a' b' c' : R) : mk d a b c * mk d a' b' c' =
    mk d (a * a' + d * (b * c' + c * b')) (a * b' + b * a' + d * (c * c')) (a * c' + b * b' + c * a') := by
  simp only [mk, map_add, map_mul]
  linear_combination (AdjoinRoot.of _ b * AdjoinRoot.of _ c' + AdjoinRoot.of _ c * AdjoinRoot.of _ b' +
    AdjoinRoot.of _ c * AdjoinRoot.of _ c' * AdjoinRoot.root _) * root_cubed (d := d)

/-- The elements A, B, C of R163 make a multiple of `a + b·v + c·v²` that lies in R: its norm F. -/
theorem mk_mul_adj (a b c : R) : mk d a b c * mk d (a * a - d * (b * c)) (d * (c * c) - a * b) (b * b - a * c) =
    AdjoinRoot.of _ (a * (a * a - d * (b * c)) + d * (c * (d * (c * c) - a * b) + b * (b * b - a * c))) := by
  rw [mk_mul, ← mk_base]
  congr 1 <;> ring

/-- The coefficients below v³ of 0 are 0: no multiple of v³ - d but 0 has a lower degree. -/
theorem mk_eq_zero [Nontrivial R] {a b c : R} (h : mk d a b c = 0) : a = 0 ∧ b = 0 ∧ c = 0 := by
  open Polynomial in
  have hq : C a + C b * X + C c * X ^ 2 = 0 := by
    by_contra hq0
    refine AdjoinRoot.mk_ne_zero_of_natDegree_lt (monic_X_pow_sub_C d three_ne_zero) hq0 ?_ (by simpa [mk] using h)
    rw [natDegree_X_pow_sub_C]
    exact Nat.lt_succ_of_le (by compute_degree)
  have hcoeff (k : Nat) :
      (Polynomial.C a + Polynomial.C b * Polynomial.X + Polynomial.C c * Polynomial.X ^ 2).coeff k = 0 := by
    rw [hq, Polynomial.coeff_zero]
  exact ⟨by simpa using hcoeff 0, by simpa [Polynomial.coeff_X, Polynomial.coeff_C] using hcoeff 1,
    by simpa [Polynomial.coeff_X, Polynomial.coeff_C] using hcoeff 2⟩

theorem mk_inj [Nontrivial R] {a b c a' b' c' : R} (h : mk d a b c = mk d a' b' c') : a = a' ∧ b = b' ∧ c = c' := by
  rw [← sub_eq_zero, mk_sub] at h
  obtain ⟨ha, hb, hc⟩ := mk_eq_zero h
  exact ⟨sub_eq_zero.mp ha, sub_eq_zero.mp hb, sub_eq_zero.mp hc⟩

end Ring

section Field

variable {K : Type} [Field K] {d : K}

/-- The elements A, B, C of R163 are all 0 only for 0: otherwise d would be the cube of b / c. -/
theorem eq_zero_of_adj_eq_zero (hd : ∀ y, y ^ 3 ≠ d) {a b c : K} (hA : a * a - d * (b * c) = 0)
    (hB : d * (c * c) - a * b = 0) (hC : b * b - a * c = 0) : a = 0 ∧ b = 0 ∧ c = 0 := by
  have hc : c = 0 := by
    by_contra hne
    apply hd (b / c)
    field_simp
    linear_combination b * hC - c * hB
  exact ⟨by simpa [hc] using hA, by simpa [hc] using hC, hc⟩

/-- v³ - d is irreducible where d is no cube. -/
theorem irreducible (hd : ∀ y, y ^ 3 ≠ d) : Irreducible (Polynomial.X ^ 3 - Polynomial.C d) :=
  X_pow_sub_C_irreducible_of_prime Nat.prime_three hd

/-- d is the norm of v: up to the sign, the constant coefficient of v³ - d. -/
theorem norm_root : Algebra.norm K (AdjoinRoot.root _ : CubicExt K d) = d := by
  have hmonic : (Polynomial.X ^ 3 - Polynomial.C d).Monic := Polynomial.monic_X_pow_sub_C d three_ne_zero
  have hcoeff := Algebra.PowerBasis.norm_gen_eq_coeff_zero_minpoly (AdjoinRoot.powerBasis hmonic.ne_zero)
  rw [AdjoinRoot.minpoly_powerBasis_gen_of_monic hmonic, AdjoinRoot.powerBasis_gen, AdjoinRoot.powerBasis_dim,
    Polynomial.natDegree_X_pow_sub_C] at hcoeff
  rw [hcoeff, Polynomial.coeff_sub, Polynomial.coeff_X_pow, Polynomial.coeff_C_zero]
  norm_num

/-- v is no square where d is none, since the norm of a square is a square. -/
theorem sq_ne_root (hd : ∀ y, y ^ 2 ≠ d) (y : CubicExt K d) : y ^ 2 ≠ AdjoinRoot.root _ := fun hy =>
  hd (Algebra.norm K y) (by rw [← map_pow, hy, norm_root])

end Field

end CubicExt

/-! ### Fp6 -/

/-- `Fp2[v] / (v³ - ξ)` (R160). -/
abbrev K6 : Type := CubicExt K2 Fp2.xi.toK2

/-- v³ - ξ is irreducible, so that K6 is a field (R160). -/
theorem k6_irreducible : Fact (Irreducible (Polynomial.X ^ 3 - Polynomial.C Fp2.xi.toK2)) := by
  have : Fact p.Prime := ⟨prime_p⟩
  have := k2_rootless
  exact ⟨CubicExt.irreducible Fp2.cube_ne_xi⟩

/-- The element v of K6. -/
noncomputable abbrev K6.v : K6 := AdjoinRoot.root _

namespace Fp6

/-- `a0 + a1·v + a2·v²`. -/
noncomputable def toK6 (x : Fp6) : K6 := CubicExt.mk _ x.a0.toK2 x.a1.toK2 x.a2.toK2

theorem toK6_injective : Function.Injective toK6 := by
  have : Fact p.Prime := ⟨prime_p⟩
  rintro ⟨a0, a1, a2⟩ ⟨b0, b1, b2⟩ h
  obtain ⟨h0, h1, h2⟩ := CubicExt.mk_inj h
  congr 1
  exacts [Fp2.toK2_injective h0, Fp2.toK2_injective h1, Fp2.toK2_injective h2]

@[simp] theorem toK6_zero : zero.toK6 = 0 := by simp [toK6, zero, CubicExt.mk]

@[simp] theorem toK6_one : one.toK6 = 1 := by simp [toK6, one, CubicExt.mk]

/-- The element (0, 1, 0) is v (R160). -/
@[simp] theorem toK6_v : (⟨Fp2.zero, Fp2.one, Fp2.zero⟩ : Fp6).toK6 = K6.v := by simp [toK6, CubicExt.mk_root]

@[simp] theorem toK6_add (a b : Fp6) : (a.add b).toK6 = a.toK6 + b.toK6 := by simp [toK6, add, CubicExt.mk_add]

@[simp] theorem toK6_sub (a b : Fp6) : (a.sub b).toK6 = a.toK6 - b.toK6 := by simp [toK6, sub, CubicExt.mk_sub]

@[simp] theorem toK6_neg (a : Fp6) : a.neg.toK6 = -a.toK6 := by simp [toK6, neg, CubicExt.mk_neg]

@[simp] theorem toK6_mul (a b : Fp6) : (a.mul b).toK6 = a.toK6 * b.toK6 := by simp [toK6, mul, CubicExt.mk_mul]

/-- `mulv` is the product with v (R163). -/
@[simp] theorem toK6_mulV (a : Fp6) : a.mulV.toK6 = K6.v * a.toK6 := by
  rw [← toK6_v]
  simp [toK6, mulV, CubicExt.mk_mul]

theorem embeds : Embeds toK6 mul one := ⟨toK6_injective, toK6_mul, toK6_one⟩

theorem toK6_eq_zero_iff {a : Fp6} : a.toK6 = 0 ↔ a = zero := by
  rw [← toK6_zero]; exact toK6_injective.eq_iff

/-- The element `(A, B, C)` of `inv6` (R163). -/
def adj (a : Fp6) : Fp6 := ⟨a.adjA, a.adjB, a.adjC⟩

theorem toK6_mul_adj (a : Fp6) : a.toK6 * a.adj.toK6 = AdjoinRoot.of _ a.norm.toK2 := by
  simp [toK6, adj, adjA, adjB, adjC, norm, CubicExt.mk_mul_adj]

theorem eq_zero_of_adj_eq_zero {a : Fp6} (h : a.adj = zero) : a = zero := by
  have : Fact p.Prime := ⟨prime_p⟩
  have := k2_rootless
  obtain ⟨a0, a1, a2⟩ := a
  obtain ⟨hA, hB, hC⟩ := Fp6.mk.inj h
  obtain ⟨h0, h1, h2⟩ := CubicExt.eq_zero_of_adj_eq_zero Fp2.cube_ne_xi (a := a0.toK2) (b := a1.toK2) (c := a2.toK2)
    (by simpa [adjA] using congrArg Fp2.toK2 hA) (by simpa [adjB] using congrArg Fp2.toK2 hB)
    (by simpa [adjC] using congrArg Fp2.toK2 hC)
  rw [Fp2.toK2_eq_zero_iff] at h0 h1 h2
  rw [h0, h1, h2, zero]

/-- The norm of a nonzero element is a product of two nonzero elements of the field K6. -/
theorem norm_ne_zero {a : Fp6} (ha : a ≠ zero) : a.norm ≠ Fp2.zero := by
  have : Fact p.Prime := ⟨prime_p⟩
  have := k2_rootless
  have := k6_irreducible
  intro hnorm
  have hprod : a.toK6 * a.adj.toK6 = 0 := by rw [toK6_mul_adj, hnorm, Fp2.toK2_zero, map_zero]
  rcases mul_eq_zero.mp hprod with h | h
  · exact ha (toK6_eq_zero_iff.mp h)
  · exact ha (eq_zero_of_adj_eq_zero (toK6_eq_zero_iff.mp h))

/-- `inv6` is `(A, B, C)` over the norm. -/
theorem toK6_inv (a : Fp6) : a.inv.toK6 = a.adj.toK6 * AdjoinRoot.of _ a.norm.inv.toK2 := by
  simp [toK6, adj, inv, ← CubicExt.mk_base, CubicExt.mk_mul]

theorem mul_inv_eq_one {a : Fp6} (ha : a ≠ zero) : a.mul a.inv = one := by
  apply toK6_injective
  calc (a.mul a.inv).toK6
      = a.toK6 * a.adj.toK6 * AdjoinRoot.of _ a.norm.inv.toK2 := by rw [toK6_mul, toK6_inv, mul_assoc]
    _ = AdjoinRoot.of _ (a.norm.mul a.norm.inv).toK2 := by rw [toK6_mul_adj, ← map_mul, Fp2.toK2_mul]
    _ = one.toK6 := by rw [Fp2.mul_inv_eq_one (norm_ne_zero ha), Fp2.toK2_one, map_one, toK6_one]

end Fp6

/-! ### Fp12 -/

/-- `Fp6[w] / (w² - v)` (R160). -/
abbrev K12 : Type := QuadraticAlgebra K6 K6.v 0

/-- w² - v has no root in Fp6, so that K12 is a field (R160). -/
theorem k12_rootless : Fact (∀ y : K6, y ^ 2 ≠ K6.v + 0 * y) := by
  have : Fact p.Prime := ⟨prime_p⟩
  have := k2_rootless
  exact ⟨by simpa using CubicExt.sq_ne_root Fp2.sq_ne_xi⟩

namespace Fp12

/-- `g0 + g1·w`. -/
noncomputable def toK12 (g : Fp12) : K12 := ⟨g.g0.toK6, g.g1.toK6⟩

theorem toK12_injective : Function.Injective toK12 := by
  rintro ⟨g0, g1⟩ ⟨h0, h1⟩ h
  obtain ⟨he0, he1⟩ := QuadraticAlgebra.ext_iff.mp h
  exact congrArg₂ Fp12.mk (Fp6.toK6_injective he0) (Fp6.toK6_injective he1)

@[simp] theorem toK12_zero : zero.toK12 = 0 := by ext <;> simp [toK12, zero]

@[simp] theorem toK12_one : one.toK12 = 1 := by
  ext <;> simp [toK12, one, QuadraticAlgebra.re_one, QuadraticAlgebra.im_one]

@[simp] theorem toK12_mul (g h : Fp12) : (g.mul h).toK12 = g.toK12 * h.toK12 := by
  ext
  · simp [toK12, mul, mul_assoc]
  · simp [toK12, mul]

theorem embeds : Embeds toK12 mul one := ⟨toK12_injective, toK12_mul, toK12_one⟩

theorem toK12_eq_zero_iff {g : Fp12} : g.toK12 = 0 ↔ g = zero := by
  rw [← toK12_zero]; exact toK12_injective.eq_iff

theorem norm_toK12 (g : Fp12) : QuadraticAlgebra.norm g.toK12 = g.norm.toK6 := by
  simp [QuadraticAlgebra.norm_def, toK12, norm, mul_assoc]

theorem norm_ne_zero {g : Fp12} (hg : g ≠ zero) : g.norm ≠ Fp6.zero := by
  have : Fact p.Prime := ⟨prime_p⟩
  have := k2_rootless
  have := k6_irreducible
  have := k12_rootless
  rwa [ne_eq, ← Fp6.toK6_eq_zero_iff, ← norm_toK12, QuadraticAlgebra.norm_eq_zero_iff_eq_zero, toK12_eq_zero_iff]

/-- `inv12` is the conjugate over the norm. -/
theorem toK12_inv (g : Fp12) : g.inv.toK12 = g.norm.inv.toK6 • star g.toK12 := by
  ext <;> simp [toK12, inv, mul_comm]

theorem mul_inv_eq_one {g : Fp12} (hg : g ≠ zero) : g.mul g.inv = one := by
  have hnorm : QuadraticAlgebra.norm g.toK12 * g.norm.inv.toK6 = 1 := by
    rw [norm_toK12, ← Fp6.toK6_mul, Fp6.mul_inv_eq_one (norm_ne_zero hg), Fp6.toK6_one]
  apply toK12_injective
  rw [toK12_mul, toK12_inv, mul_smul_star_eq_one hnorm, toK12_one]

end Fp12

/-! ### The obligations about the fields -/

/-- Settles O31: the norm of a nonzero element is nonzero since -1 is no square in Fp, and the inverse is unique as in
every commutative ring. -/
theorem fp2InverseIsUnique : Obligations.Fp2InverseIsUnique := fun _ hx =>
  ⟨Fp2.mul_inv_eq_one hx, fun _ hy => Fp2.embeds.eq_of_mul_eq_one hy (Fp2.mul_inv_eq_one hx)⟩

/-- Settles O32: as for Fp2, since ξ is no cube in Fp2. -/
theorem fp6InverseIsUnique : Obligations.Fp6InverseIsUnique := fun _ hx =>
  ⟨Fp6.mul_inv_eq_one hx, fun _ hy => Fp6.embeds.eq_of_mul_eq_one hy (Fp6.mul_inv_eq_one hx)⟩

/-- Settles O33: as for Fp2, since v is no square in Fp6. -/
theorem fp12InverseIsUnique : Obligations.Fp12InverseIsUnique := fun _ hx =>
  ⟨Fp12.mul_inv_eq_one hx, fun _ hy => Fp12.embeds.eq_of_mul_eq_one hy (Fp12.mul_inv_eq_one hx)⟩

theorem pairingProduct_perm {l l' : List (G1 × G2)} (h : l.Perm l') : pairingProduct l = pairingProduct l' :=
  h.foldl_eq' (fun _ _ _ _ _ => Fp12.embeds.right_comm _ _ _) Fp12.one

/-- Settles O34: Fp12 multiplies as the commutative ring K12 does. -/
theorem pairingProductIgnoresOrder : Obligations.PairingProductIgnoresOrder :=
  ⟨Fp12.embeds.comm, Fp12.embeds.assoc, Fp12.embeds.right_identity, fun _ _ => pairingProduct_perm⟩

end Sys2Proof.Machine
end

section
/-! SUPPORT. The commands that multiply and invert in the tower (41_field_ext.md R173, R174, R183, R184, R193, R194): the
products as the rules' polynomials reduced, and what the destination words hold. -/

namespace Sys2Proof.Machine

/-! ### The products of the rules -/

namespace Fp2

/-- The real part of a product is its exact integer value, reduced (R162). -/
theorem val_mul_c0 (x y : Fp2) : ((x.mul y).c0.val : Int) = (x.c0.val * y.c0.val - x.c1.val * y.c1.val : Int) % p := by
  apply Fp.val_eq_emod
  simp only [mul, Fp.toZMod_sub, Fp.toZMod_mul]
  simp [Fp.toZMod]

theorem val_mul_c1 (x y : Fp2) : (x.mul y).c1.val = (x.c0.val * y.c1.val + x.c1.val * y.c0.val) % p := by
  simp [mul, Fin.val_add, Fin.val_mul]

theorem xi_mul (x : Fp2) : xi.mul x = x.mulXi := toK2_injective (by simp)

end Fp2

/-- `mul6` is the product of the polynomials in v with `v³ = ξ` (R163). -/
theorem Fp6.mul_eq_reduced (x y : Fp6) : x.mul y =
    ⟨(x.a0.mul y.a0).add (Fp2.xi.mul ((x.a1.mul y.a2).add (x.a2.mul y.a1))),
     ((x.a0.mul y.a1).add (x.a1.mul y.a0)).add (Fp2.xi.mul (x.a2.mul y.a2)),
     ((x.a0.mul y.a2).add (x.a1.mul y.a1)).add (x.a2.mul y.a0)⟩ := by
  simp only [Fp2.xi_mul, mul]

theorem Fp6.v_mul (x : Fp6) : Fp6.mul ⟨Fp2.zero, Fp2.one, Fp2.zero⟩ x = x.mulV := toK6_injective (by simp)

/-- `mul12` is the product of the polynomials in w with `w² = v` (R164). -/
theorem Fp12.mul_eq_reduced (x y : Fp12) : x.mul y =
    ⟨(x.g0.mul y.g0).add (Fp6.mul ⟨Fp2.zero, Fp2.one, Fp2.zero⟩ (x.g1.mul y.g1)),
     (x.g0.mul y.g1).add (x.g1.mul y.g0)⟩ := by
  simp only [Fp6.v_mul, mul]

/-! ### What the destination words hold -/

theorem RanWriting.holdsAt {s t : State} {d : Idx} {ws : List Word} (h : RanWriting s t d ws) : HoldsAt t d ws := by
  intro k hk
  have hword := congrArg (·[k]?) h.dest
  rw [← hword]
  simp [firstWords, State.operand, hk]

theorem RanWriting.load {α : Type} {l : Layout α} (hl : l.Lawful) {s t : State} {d : Idx} {x : α}
    (h : RanWriting s t d (l.store x)) : l.load (t.operand d) = some x :=
  hl.load_iff.mpr (by rw [← hl.length_store x]; exact h.dest)

/-- A command that refuses zero leaves the words of its value for any other element. -/
theorem completes_nonzeroCmd_holdsAt {α : Type} [DecidableEq α] {l : Layout α} (hl : l.Lawful) {f : α → α} {i : Instr}
    {s : State} {d a : Idx} {x : α} (hi : body i s = nonzeroCmd l f d a s) (hd : InFile d l.width)
    (ha : InFile a l.width) (hx : l.load (s.operand a) = some x) (hne : x ≠ l.zero) :
    Completes i s fun t => HoldsAt t d (l.store (f x)) ∧ t.acc = s.acc ∧ Ran s t [(d.toNat, l.width)] false :=
  (completes_nonzeroCmd hl hi hd ha hx hne).imp fun _ h =>
    ⟨h.holdsAt, h.acc, by rw [← hl.length_store (f x)]; exact h.ran⟩

/-- A command of two operands leaves words that load as its value. -/
theorem completes_binaryCmd_load {α : Type} {l : Layout α} (hl : l.Lawful) {f : α → α → α} {i : Instr} {s : State}
    {d a b : Idx} {x y : α} (hi : body i s = binaryCmd l f d a b s) (hd : InFile d l.width) (ha : InFile a l.width)
    (hb : InFile b l.width) (hx : l.load (s.operand a) = some x) (hy : l.load (s.operand b) = some y) :
    Completes i s fun t => l.load (t.operand d) = some (f x y) ∧ t.acc = s.acc ∧ Ran s t [(d.toNat, l.width)] false :=
  (completes_binaryCmd hl hi hd ha hb hx hy).imp fun _ h =>
    ⟨h.load hl, h.acc, by rw [← hl.length_store (f x y)]; exact h.ran⟩

/-! ### The obligations about the commands -/

/-- Settles O27: the loaded coefficients multiply as the integers do, reduced once. -/
theorem fp2MulWritesTheProduct : Obligations.Fp2MulWritesTheProduct := by
  intro s d a b hd ha hb
  obtain ⟨x, hx⟩ := fp2Layout_lawful.exists_load ha
  obtain ⟨y, hy⟩ := fp2Layout_lawful.exists_load hb
  refine (completes_binaryCmd_load (f := Fp2.mul) fp2Layout_lawful rfl hd ha.1 hb.1 hx hy).imp
    fun t ⟨hdest, hacc, hran⟩ => ?_
  obtain ⟨hx0, hx1⟩ := loadFp2_eq_some.mp hx
  obtain ⟨hy0, hy1⟩ := loadFp2_eq_some.mp hy
  obtain ⟨hd0, hd1⟩ := loadFp2_eq_some.mp hdest
  simp only [State.operand, Nat.add_zero] at hx0 hx1 hy0 hy1 hd0 hd1
  rw [hx0, hx1, hy0, hy1, hd0, hd1]
  exact ⟨x.val_mul_c0 y, x.val_mul_c1 y, hacc, hran⟩

/-- Settles O28: the model's `mulxi` and `mulv` are the products with ξ and v. -/
theorem towerMulWritesTheProduct : Obligations.TowerMulWritesTheProduct := by
  refine ⟨fun s d a b x y hd ha hb hx hy => ?_, fun s d a b x y hd ha hb hx hy => ?_⟩
  · rw [← Fp6.mul_eq_reduced]
    exact completes_binaryCmd_load fp6Layout_lawful rfl hd ha hb hx hy
  · rw [← Fp12.mul_eq_reduced]
    exact completes_binaryCmd_load fp12Layout_lawful rfl hd ha hb hx hy

/-- Settles O29: the three commands are one shape, each over a layout whose zero they refuse. -/
theorem towerInvWritesTheInverse : Obligations.TowerInvWritesTheInverse :=
  ⟨fun _ _ _ _ hd ha hx hne => completes_nonzeroCmd_holdsAt fp2Layout_lawful rfl hd ha hx hne,
    fun _ _ _ _ hd ha hx hne => completes_nonzeroCmd_holdsAt fp6Layout_lawful rfl hd ha hx hne,
    fun _ _ _ _ hd ha hx hne => completes_nonzeroCmd_holdsAt fp12Layout_lawful rfl hd ha hx hne⟩

end Sys2Proof.Machine
end

section
/-! SUPPORT. Points and their words: the point that a pair of coordinates encodes, the decoders of the wire format in
one equation each (42_curve.md R227, R228), and their round trip (R229). -/

namespace Sys2Proof.Machine

/-! ### The point of a pair of coordinates -/

@[simp] theorem Point.ofCoords_zero {F : Type} [DecidableEq F] (zero : F) :
    Point.ofCoords zero zero zero = .infinity := if_pos ⟨rfl, rfl⟩

theorem Point.ofCoords_eq_affine {F : Type} [DecidableEq F] {zero x y : F} (h : ¬(x = zero ∧ y = zero)) :
    Point.ofCoords zero x y = .affine x y := if_neg h

/-- The point that encodes O is not on E, so that the encoding is unambiguous (R24). -/
theorem Point.ofCoords_of_onE {x y : Fp} (h : onE x y = true) : Point.ofCoords Fp.zero x y = .affine x y :=
  ofCoords_eq_affine fun ⟨hx, hy⟩ => absurd (hx ▸ hy ▸ h) (by decide)

theorem Point.ofCoords_of_onTwist {x y : Fp2} (h : onTwist x y = true) : Point.ofCoords Fp2.zero x y = .affine x y :=
  ofCoords_eq_affine fun ⟨hx, hy⟩ => absurd (hx ▸ hy ▸ h) (by decide)

@[simp] theorem isValidG1_infinity : isValidG1 .infinity = true := rfl

@[simp] theorem isValidG1_affine (x y : Fp) : isValidG1 (.affine x y) = onE x y := rfl

@[simp] theorem isValidG2_infinity : isValidG2 .infinity = true := rfl

@[simp] theorem isValidG2_affine (x y : Fp2) : isValidG2 (.affine x y) = onTwist x y := rfl

/-- is_valid_G1 of coordinates (R223). -/
theorem isValidG1_ofCoords {x y : Fp} :
    isValidG1 (Point.ofCoords Fp.zero x y) = true ↔ (x = Fp.zero ∧ y = Fp.zero) ∨ onE x y = true := by
  by_cases h : x = Fp.zero ∧ y = Fp.zero
  · simp [h]
  · simp [Point.ofCoords_eq_affine h, h]

/-- is_valid_G2 of coordinates (R224). -/
theorem isValidG2_ofCoords {x y : Fp2} :
    isValidG2 (Point.ofCoords Fp2.zero x y) = true ↔ (x = Fp2.zero ∧ y = Fp2.zero) ∨ onTwist x y = true := by
  by_cases h : x = Fp2.zero ∧ y = Fp2.zero
  · simp [h]
  · simp [Point.ofCoords_eq_affine h, h]

theorem binPow_idem {α : Type} {op : α → α → α} {e : α} (he : op e e = e) (k w : Nat) : binPow op e e k w = e := by
  induction w generalizing k with
  | zero => rfl
  | succ w ih => simp [binPow, ih, he]

/-- `[n]O = O`. -/
theorem smulOrder_infinity : smulOrder .infinity = .infinity := binPow_idem rfl _ _

/-- in_G2 of coordinates (R225). -/
theorem inG2_ofCoords {x y : Fp2} : inG2 (Point.ofCoords Fp2.zero x y) = true ↔
    (x = Fp2.zero ∧ y = Fp2.zero) ∨ (onTwist x y = true ∧ smulOrder (.affine x y) = .infinity) := by
  by_cases h : x = Fp2.zero ∧ y = Fp2.zero
  · simp [inG2, smulOrder_infinity, h]
  · simp [Point.ofCoords_eq_affine h, inG2, h]

/-- The equation of E on the canonical integers (R220). -/
theorem onE_iff {x y : Fp} : onE x y = true ↔ y.val * y.val % p = (x.val * x.val * x.val + 3) % p := by
  rw [onE, decide_eq_true_iff, Fin.ext_iff]
  simp [Fin.val_add, Fin.val_mul, Fp.ofNat, Nat.add_mod, Nat.mul_mod]

/-- The equation of E' (R221). -/
theorem onTwist_iff {x y : Fp2} : onTwist x y = true ↔ y.mul y = ((x.mul x).mul x).add twistB := decide_eq_true_iff

theorem Fp.eq_zero_iff {x : Fp} : x = zero ↔ x.val = 0 := Fin.ext_iff

theorem isValidG1_ofCoords_val {x y : Fp} : isValidG1 (Point.ofCoords Fp.zero x y) = true ↔
    (x.val = 0 ∧ y.val = 0) ∨ y.val * y.val % p = (x.val * x.val * x.val + 3) % p := by
  rw [isValidG1_ofCoords, onE_iff, Fp.eq_zero_iff, Fp.eq_zero_iff]

/-! ### The words of a point -/

theorem storeG1_ofCoords (x y : Fp) : storeG1 (Point.ofCoords Fp.zero x y) = [x.toWord, y.toWord] := by
  by_cases h : x = Fp.zero ∧ y = Fp.zero
  · obtain ⟨rfl, rfl⟩ := h
    rfl
  · rw [Point.ofCoords_eq_affine h, storeG1]

theorem storeG2_ofCoords (x y : Fp2) :
    storeG2 (Point.ofCoords Fp2.zero x y) = [x.c0.toWord, x.c1.toWord, y.c0.toWord, y.c1.toWord] := by
  by_cases h : x = Fp2.zero ∧ y = Fp2.zero
  · obtain ⟨rfl, rfl⟩ := h
    rfl
  · rw [Point.ofCoords_eq_affine h]
    rfl

theorem Fp.toWord_of_toNat {w : Word} {x : Fp} (h : w.toNat = x.val) : x.toWord = w :=
  BitVec.eq_of_toNat_eq (by rw [toNat_toWord, h])

/-! ### The decoders -/

/-- The range check comes first (R227). -/
theorem decodeG1_of_large {rx ry : Word} (h : p ≤ rx.toNat ∨ p ≤ ry.toNat) :
    decodeG1 rx ry = .error .outOfRangeField := by
  rw [← Fp.ofWord?_eq_none, ← Fp.ofWord?_eq_none] at h
  rcases h with h | h
  · simp [decodeG1, h]
  · cases hx : Fp.ofWord? rx <;> simp [decodeG1, h, hx]

/-- In range, the decoder gives the encoded point if it is valid (R227). -/
theorem decodeG1_of_toNat {rx ry : Word} {x y : Fp} (hx : rx.toNat = x.val) (hy : ry.toNat = y.val) :
    decodeG1 rx ry = if isValidG1 (Point.ofCoords Fp.zero x y) then .ok (Point.ofCoords Fp.zero x y)
      else .error .pointNotOnCurve := by
  rw [← Fp.ofWord?_eq_some] at hx hy
  by_cases h : x = Fp.zero ∧ y = Fp.zero
  · simp [decodeG1, hx, hy, h]
  · simp [decodeG1, hx, hy, Point.ofCoords_eq_affine h, h]

/-- The range check comes first (R228). -/
theorem decodeG2_of_large {r : Nat → Word} (h : ∃ k < 4, p ≤ (r k).toNat) :
    decodeG2 (r 0) (r 1) (r 2) (r 3) = .error .outOfRangeField := by
  rw [decodeG2]
  split
  case h_1 h0 h1 h2 h3 =>
    obtain ⟨k, hk, hlarge⟩ := h
    rw [← Fp.ofWord?_eq_none] at hlarge
    interval_cases k <;> simp_all
  case h_2 => rfl

/-- In range, the decoder gives the encoded point, with the halves of each coordinate swapped, if it is valid and in G2
(R228). -/
theorem decodeG2_of_toNat {r0 r1 r2 r3 : Word} {x y : Fp2} (h0 : r0.toNat = x.c1.val) (h1 : r1.toNat = x.c0.val)
    (h2 : r2.toNat = y.c1.val) (h3 : r3.toNat = y.c0.val) :
    decodeG2 r0 r1 r2 r3 = if isValidG2 (Point.ofCoords Fp2.zero x y) then
        if inG2 (Point.ofCoords Fp2.zero x y) then .ok (Point.ofCoords Fp2.zero x y) else .error .invalidSubgroup
      else .error .pointNotOnCurve := by
  rw [← Fp.ofWord?_eq_some] at h0 h1 h2 h3
  by_cases h : x = Fp2.zero ∧ y = Fp2.zero
  · simp [decodeG2, h0, h1, h2, h3, inG2, smulOrder_infinity, h]
  · by_cases hon : onTwist x y = true
    · simp [decodeG2, h0, h1, h2, h3, Point.ofCoords_eq_affine h, inG2, h, hon]
    · simp [decodeG2, h0, h1, h2, h3, Point.ofCoords_eq_affine h, h, hon]

/-! ### Decoding what was encoded -/

/-- A valid point is that of the coordinates it is stored with. -/
theorem exists_ofCoords_of_isValidG1 {q : G1} (h : isValidG1 q = true) : ∃ x y, q = Point.ofCoords Fp.zero x y := by
  cases q with
  | infinity => exact ⟨Fp.zero, Fp.zero, rfl⟩
  | affine x y => exact ⟨x, y, (Point.ofCoords_of_onE h).symm⟩

theorem exists_ofCoords_of_isValidG2 {q : G2} (h : isValidG2 q = true) : ∃ x y, q = Point.ofCoords Fp2.zero x y := by
  cases q with
  | infinity => exact ⟨Fp2.zero, Fp2.zero, rfl⟩
  | affine x y => exact ⟨x, y, (Point.ofCoords_of_onTwist h).symm⟩

theorem isValidG2_of_inG2 {q : G2} (h : inG2 q = true) : isValidG2 q = true := (Bool.and_eq_true_iff.mp h).1

/-- Settles O39: the stored words hold the coordinates, which encode the point. -/
theorem decodersInvertTheWireEncoding : Obligations.DecodersInvertTheWireEncoding := by
  constructor
  · intro q hq
    obtain ⟨x, y, rfl⟩ := exists_ofCoords_of_isValidG1 hq
    rw [storeG1_ofCoords]
    exact (decodeG1_of_toNat x.toNat_toWord y.toNat_toWord).trans (if_pos hq)
  · intro q hq
    have hvalid := isValidG2_of_inG2 hq
    obtain ⟨x, y, rfl⟩ := exists_ofCoords_of_isValidG2 hvalid
    rw [storeG2_ofCoords]
    exact (decodeG2_of_toNat x.c1.toNat_toWord x.c0.toNat_toWord y.c1.toNat_toWord y.c0.toNat_toWord).trans
      ((if_pos hvalid).trans (if_pos hq))

end Sys2Proof.Machine
end

section
/-! SUPPORT. The curve commands (42_curve.md R230 to R234): what DEC_G1 and DEC_G2 write, in the order of the decoders'
checks, and what the checks of a point report. -/

namespace Sys2Proof.Machine

/-! ### DEC_G1 and DEC_G2 -/

section Decode

variable {s : State} {d a : Idx}

/-- An error of the decoder is the fault of the command. -/
theorem completes_decG1_error (hd : InFile d 2) (ha : InFile a 2) {e : ErrCode}
    (h : decodeG1 (s.operand a 0) (s.operand a 1) = .error e) :
    Completes (.decG1 d a) s fun t => Faulted s t e 0 :=
  completes_faulted (by simp [body, decG1Cmd_eq, fits_iff.mpr hd, fits_iff.mpr ha, h])

theorem completes_decG2_error (hd : InFile d 4) (ha : InFile a 4) {e : ErrCode}
    (h : decodeG2 (s.operand a 0) (s.operand a 1) (s.operand a 2) (s.operand a 3) = .error e) :
    Completes (.decG2 d a) s fun t => Faulted s t e 0 :=
  completes_faulted (by simp [body, decG2Cmd_eq, fits_iff.mpr hd, fits_iff.mpr ha, h])

/-- The point of the decoder is written at D. -/
theorem completes_decG1_ok (hd : InFile d 2) (ha : InFile a 2) {q : G1}
    (h : decodeG1 (s.operand a 0) (s.operand a 1) = .ok q) :
    Completes (.decG1 d a) s fun t => RanWriting s t d (storeG1 q) :=
  completes_ranWriting (by rwa [length_storeG1])
    (by simp [body, decG1Cmd_eq, fits_iff.mpr hd, fits_iff.mpr ha, h])

theorem completes_decG2_ok (hd : InFile d 4) (ha : InFile a 4) {q : G2}
    (h : decodeG2 (s.operand a 0) (s.operand a 1) (s.operand a 2) (s.operand a 3) = .ok q) :
    Completes (.decG2 d a) s fun t => RanWriting s t d (storeG2 q) :=
  completes_ranWriting (by rwa [length_storeG2])
    (by simp [body, decG2Cmd_eq, fits_iff.mpr hd, fits_iff.mpr ha, h])

end Decode

/-- Settles O36: the range check, then the validity of the encoded point, whose words are those that were read. -/
theorem decG1DecodesInOrder : Obligations.DecG1DecodesInOrder := by
  rintro s d a _ _ hd ha rfl rfl
  refine ⟨fun hlarge => completes_decG1_error hd ha (decodeG1_of_large hlarge), fun hx hy hne hoff => ?_,
    fun hx hy hon => ?_⟩
  · have hdecode := decodeG1_of_toNat (x := ⟨_, hx⟩) (y := ⟨_, hy⟩) rfl rfl
    rw [if_neg (mt isValidG1_ofCoords_val.mp (not_or.mpr ⟨hne, hoff⟩))] at hdecode
    exact completes_decG1_error hd ha hdecode
  · have hdecode := decodeG1_of_toNat (x := ⟨_, hx⟩) (y := ⟨_, hy⟩) rfl rfl
    rw [if_pos (isValidG1_ofCoords_val.mpr hon)] at hdecode
    refine (completes_decG1_ok hd ha hdecode).imp fun t h => ?_
    rw [storeG1_ofCoords, Fp.toWord_of_toNat rfl, Fp.toWord_of_toNat rfl] at h
    exact ⟨h.holdsAt 0 (by simp), h.holdsAt 1 (by simp), h.acc, h.ran⟩

/-- Settles O37: the range check, then the validity of the encoded point, then its subgroup; the words are those that
were read, each pair swapped. -/
theorem decG2DecodesInOrder : Obligations.DecG2DecodesInOrder := by
  intro s d a hd ha
  refine ⟨fun hlarge => completes_decG2_error hd ha (decodeG2_of_large hlarge), fun x y h0 h1 h2 h3 => ?_⟩
  have hdecode := decodeG2_of_toNat h0 h1 h2 h3
  refine ⟨fun hne hoff => ?_, fun hne hon hsub => ?_, fun hin => ?_⟩
  · have hinvalid : ¬isValidG2 (.ofCoords Fp2.zero x y) = true := by simp [isValidG2_ofCoords, hne, hoff]
    rw [if_neg hinvalid] at hdecode
    exact completes_decG2_error hd ha hdecode
  · have hvalid : isValidG2 (.ofCoords Fp2.zero x y) = true := isValidG2_ofCoords.mpr (.inr hon)
    have hout : ¬inG2 (.ofCoords Fp2.zero x y) = true := by simp [inG2_ofCoords, hne, hsub]
    rw [if_pos hvalid, if_neg hout] at hdecode
    exact completes_decG2_error hd ha hdecode
  · have hmem := inG2_ofCoords.mpr hin
    rw [if_pos (isValidG2_of_inG2 hmem), if_pos hmem] at hdecode
    refine (completes_decG2_ok hd ha hdecode).imp fun t h => ?_
    rw [storeG2_ofCoords, Fp.toWord_of_toNat h0, Fp.toWord_of_toNat h1, Fp.toWord_of_toNat h2,
      Fp.toWord_of_toNat h3] at h
    exact ⟨h.holdsAt 0 (by simp), h.holdsAt 1 (by simp), h.holdsAt 2 (by simp), h.holdsAt 3 (by simp), h.acc, h.ran⟩

/-! ### G1_CHK, G2_CHK and G2_SUBGRP -/

theorem loadG1_of_toNat {r : Nat → Word} {x y : Fp} (hx : (r 0).toNat = x.val) (hy : (r 1).toNat = y.val) :
    loadG1 r = some (Point.ofCoords Fp.zero x y) := by
  have hx' : loadFp r = some x := loadFp_eq_some.mpr hx
  have hy' : loadFp (fun k => r (k + 1)) = some y := loadFp_eq_some.mpr hy
  rw [loadG1, hx', hy']

theorem loadG2_of_load {r : Nat → Word} {x y : Fp2} (hx : loadFp2 r = some x)
    (hy : loadFp2 (fun k => r (k + 2)) = some y) : loadG2 r = some (Point.ofCoords Fp2.zero x y) := by
  rw [loadG2, hx, hy]

section Checks

variable {s : State} {a : Idx}

/-- A command that writes nothing reports its result and changes nothing else. -/
theorem completes_result {i : Instr} {r : Bool} (h : body i s = .ok { result := r }) :
    Completes i s fun t => t.result = r ∧ t.acc = s.acc ∧ Ran s t [] t.result :=
  ⟨_, exec_of_body_ok h, rfl, rfl, ran_complete s _⟩

theorem completes_g1Chk (ha : InFile a 2) {q : G1} (hq : loadG1 (s.operand a) = some q) :
    Completes (.g1Chk a) s fun t => t.result = isValidG1 q ∧ t.acc = s.acc ∧ Ran s t [] t.result :=
  completes_result (by rw [body, g1ChkCmd_eq, if_pos (fits_iff.mpr ha), hq])

theorem completes_g2TestCmd {i : Instr} {test : G2 → Bool} (hi : body i s = g2TestCmd test a s) (ha : InFile a 4)
    {q : G2} (hq : loadG2 (s.operand a) = some q) :
    Completes i s fun t => t.result = test q ∧ t.acc = s.acc ∧ Ran s t [] t.result :=
  completes_result (by rw [hi, g2TestCmd_eq, if_pos (fits_iff.mpr ha), hq])

end Checks

/-- Settles O38: each check reports its predicate of the point that the words encode. -/
theorem checksReportTheirPredicates : Obligations.ChecksReportTheirPredicates := by
  refine ⟨fun s a ⟨ha, hcanon⟩ => ?_, fun s a x y ha hx hy => ⟨?_, ?_⟩⟩
  · have hload : loadG1 (s.operand a) = some (.ofCoords Fp.zero ⟨_, hcanon 0 (by simp)⟩ ⟨_, hcanon 1 (by simp)⟩) :=
      loadG1_of_toNat rfl rfl
    refine (completes_g1Chk ha hload).imp fun t ⟨hresult, hacc, hran⟩ => ⟨?_, hacc, hran⟩
    rw [hresult, isValidG1_ofCoords_val, ← pow_two, ← pow_three']
    rfl
  · refine (completes_g2TestCmd (test := isValidG2) rfl ha (loadG2_of_load hx hy)).imp
      fun t ⟨hresult, hacc, hran⟩ => ⟨?_, hacc, hran⟩
    rw [hresult, isValidG2_ofCoords, onTwist_iff]
  · refine (completes_g2TestCmd (test := inG2) rfl ha (loadG2_of_load hx hy)).imp
      fun t ⟨hresult, hacc, hran⟩ => ⟨?_, hacc, hran⟩
    rw [hresult, inG2_ofCoords, onTwist_iff]

end Sys2Proof.Machine
end

section
/-! SUPPORT. The group law of 42_curve.md R222 over a field is that of Mathlib's elliptic curves, so that it is
associative; hence `[n]Q` is the repeated sum, whatever the method (R225). -/

namespace Sys2Proof.Machine

/-! ### The operations of a field -/

/-- `f` takes the operations `o` to those of the field `K`. -/
structure FieldOps.EmbedsIn {F K : Type} [Field K] (o : FieldOps F) (f : F → K) : Prop where
  injective : Function.Injective f
  map_ofNat : ∀ k, f (o.ofNat k) = k
  map_sub : ∀ x y, f (o.sub x y) = f x - f y
  map_neg : ∀ x, f (o.neg x) = -f x
  map_mul : ∀ x y, f (o.mul x y) = f x * f y
  map_inv : ∀ x, f (o.inv x) = (f x)⁻¹

/-! ### The sum of two affine points -/

section Affine

variable {F : Type} [DecidableEq F] (o : FieldOps F)

/-- The slope of R222: of the tangent where the first coordinates are equal, else of the chord. -/
def FieldOps.slope (x1 y1 x2 y2 : F) : F :=
  if x1 = x2 then o.mul (o.mul (o.mul (o.ofNat 3) x1) x1) (o.inv (o.mul (o.ofNat 2) y1))
  else o.mul (o.sub y2 y1) (o.inv (o.sub x2 x1))

/-- The third point of R222, for a line of slope `lam` through `(x1, y1)` and a point with first coordinate `x2`. -/
def FieldOps.chordPoint (lam x1 y1 x2 : F) : Point F :=
  let x3 := o.sub (o.sub (o.mul lam lam) x1) x2
  .affine x3 (o.sub (o.mul lam (o.sub x1 x3)) y1)

@[simp] theorem Point.infinity_add (q : Point F) : Point.add o .infinity q = q := rfl

@[simp] theorem Point.add_infinity (q : Point F) : Point.add o q .infinity = q := by cases q <;> rfl

theorem Point.add_affine (x1 y1 x2 y2 : F) : Point.add o (.affine x1 y1) (.affine x2 y2) =
    if x1 = x2 ∧ y1 = o.neg y2 then .infinity else o.chordPoint (o.slope x1 y1 x2 y2) x1 y1 x2 := rfl

end Affine

/-! ### The curve y² = x³ + b over a field -/

/-- The curve `y² = x³ + b` (R220, R221). -/
abbrev shortCurve {K : Type} [Field K] (b : K) : WeierstrassCurve.Affine K := ⟨0, 0, 0, 0, b⟩

section Curve

variable {F K : Type} [Field K] {f : F → K} {b : K}

/-- A curve with `b ≠ 0` has no singular point, where 2 and 3 are not 0. -/
theorem shortCurve_nonsingular (h2 : (2 : K) ≠ 0) (h3 : (3 : K) ≠ 0) (hb : b ≠ 0) {x y : K} (h : y ^ 2 = x ^ 3 + b) :
    (shortCurve b).Nonsingular x y := by
  rw [WeierstrassCurve.Affine.nonsingular_iff', WeierstrassCurve.Affine.equation_iff]
  refine ⟨by simpa using h, ?_⟩
  by_contra! hsing
  obtain ⟨hx, hy⟩ := hsing
  have hx0 : x = 0 := by simpa [h3] using hx
  have hy0 : y = 0 := by simpa [h2] using hy
  exact hb (by simpa [hx0, hy0] using h.symm)

/-- The point `q` of the model is the point `P` of the curve over `K`, coordinate by coordinate. -/
def Represents (f : F → K) : Point F → (shortCurve b).Point → Prop
  | .infinity, .zero => True
  | .affine x y, .some x' y' _ => f x = x' ∧ f y = y'
  | _, _ => False

/-- O is the neutral point. -/
theorem Represents.infinity : Represents f .infinity (0 : (shortCurve b).Point) := trivial

theorem Represents.inj {q r : Point F} {P : (shortCurve b).Point} (hq : Represents f q P)
    (hf : Function.Injective f) (hr : Represents f r P) : q = r := by
  match q, r, P, hq, hr with
  | .infinity, .infinity, .zero, _, _ => rfl
  | .affine x y, .affine x' y', .some _ _ _, ⟨hx, hy⟩, ⟨hx', hy'⟩ =>
    rw [hf (hx.trans hx'.symm), hf (hy.trans hy'.symm)]

end Curve

section GroupLaw

variable {F K : Type} [DecidableEq F] [Field K] [DecidableEq K] {o : FieldOps F} {f : F → K} {b : K}

/-- The slope of R222 is that of the curve, for two points whose sum is not O. -/
theorem map_slope (ho : o.EmbedsIn f) {x1 y1 x2 y2 : F} (hne : ¬(x1 = x2 ∧ y1 = o.neg y2)) :
    f (o.slope x1 y1 x2 y2) = (shortCurve b).slope (f x1) (f x2) (f y1) (f y2) := by
  by_cases hx : x1 = x2
  · subst hx
    have hy : f y1 ≠ (shortCurve b).negY (f x1) (f y2) := by
      simpa [WeierstrassCurve.Affine.negY, ← ho.map_neg] using fun h => hne ⟨rfl, ho.injective h⟩
    rw [WeierstrassCurve.Affine.slope_of_Y_ne rfl hy]
    simp only [FieldOps.slope, if_true, ho.map_mul, ho.map_inv, ho.map_ofNat, WeierstrassCurve.Affine.negY]
    push_cast
    ring
  · rw [WeierstrassCurve.Affine.slope_of_X_ne (ho.injective.ne hx)]
    simp only [FieldOps.slope, if_neg hx, ho.map_mul, ho.map_inv, ho.map_sub]
    rw [← div_eq_mul_inv, ← neg_sub (f y1), ← neg_sub (f x1), neg_div_neg_eq]

/-- The law of R222 is that of the curve. -/
theorem Represents.add (ho : o.EmbedsIn f) {q r : Point F} {P R : (shortCurve b).Point} (hq : Represents f q P)
    (hr : Represents f r R) : Represents f (Point.add o q r) (P + R) := by
  match q, P, hq, r, R, hr with
  | .infinity, .zero, _, r, R, hr =>
    rw [← WeierstrassCurve.Affine.Point.zero_def, zero_add]
    exact hr
  | .affine x y, .some _ _ _, hq, .infinity, .zero, _ =>
    rw [← WeierstrassCurve.Affine.Point.zero_def, add_zero]
    exact hq
  | .affine x1 y1, .some _ _ h1, ⟨hx1, hy1⟩, .affine x2 y2, .some _ _ h2, ⟨hx2, hy2⟩ =>
    subst hx1 hy1 hx2 hy2
    have hopp : x1 = x2 ∧ y1 = o.neg y2 ↔ f x1 = f x2 ∧ f y1 = (shortCurve b).negY (f x2) (f y2) := by
      simp [WeierstrassCurve.Affine.negY, ← ho.map_neg, ho.injective.eq_iff]
    rw [Point.add_affine]
    split
    case isTrue h =>
      rw [WeierstrassCurve.Affine.Point.add_of_Y_eq (hopp.mp h).1 (hopp.mp h).2]
      trivial
    case isFalse h =>
      rw [WeierstrassCurve.Affine.Point.add_some (mt hopp.mpr h)]
      simp only [FieldOps.chordPoint, Represents, ho.map_sub, ho.map_mul, map_slope (b := b) ho h]
      constructor
      · simp [pow_two]
      · simp only [WeierstrassCurve.Affine.addY, WeierstrassCurve.Affine.negAddY, WeierstrassCurve.Affine.addX,
          WeierstrassCurve.Affine.negY]
        ring

end GroupLaw

/-! ### Multiples -/

section Multiples

variable {α M : Type} [AddMonoid M] {R : α → M → Prop} {op : α → α → α} {e x : α} {m : M}

variable (hop : ∀ {a b m n}, R a m → R b n → R (op a b) (m + n)) (he : R e 0) (hx : R x m)

include hop he hx

/-- Double-and-add gives what stands for the multiple, where `R` says what element of a monoid an `α` stands for: unlike
for `map_binPow`, not every `α` need stand for one, as not every pair of coordinates is a point of the curve. -/
theorem binPow_represents {k w : Nat} (hk : k < 2 ^ w) : R (binPow op e x k w) (k • m) := by
  induction w generalizing k with
  | zero =>
    obtain rfl : k = 0 := by simpa using hk
    simpa [binPow] using he
  | succ w ih =>
    have half : R (binPow op e x (k / 2) w) ((k / 2) • m) := ih (by rw [pow_succ] at hk; omega)
    simp only [binPow]
    split
    · have hodd : k • m = (k / 2) • m + (k / 2) • m + m := by rw [← add_nsmul, ← succ_nsmul]; congr 1; omega
      exact hodd ▸ hop (hop half half) hx
    · have heven : k • m = (k / 2) • m + (k / 2) • m := by rw [← add_nsmul]; congr 1; omega
      exact heven ▸ hop half half

/-- So does adding the element again and again. -/
theorem iterate_represents (k : Nat) : R ((fun t => op t x)^[k] e) (k • m) := by
  induction k with
  | zero => simpa using he
  | succ k ih =>
    rw [Function.iterate_succ_apply', succ_nsmul]
    exact hop ih hx

end Multiples

section PointMultiples

variable {F K : Type} [DecidableEq F] [Field K] [DecidableEq K] {o : FieldOps F} {f : F → K} {b : K}

/-- `[k]Q` of the model is the multiple in the group of the curve (R222). -/
theorem Represents.smul (ho : o.EmbedsIn f) {q : Point F} {P : (shortCurve b).Point} (hq : Represents f q P)
    {k w : Nat} (hk : k < 2 ^ w) : Represents f (q.smul o k w) (k • P) :=
  binPow_represents (R := Represents f) (Represents.add ho) Represents.infinity hq hk

theorem Represents.iterate_add (ho : o.EmbedsIn f) {q : Point F} {P : (shortCurve b).Point} (hq : Represents f q P)
    (k : Nat) : Represents f ((fun t => Point.add o t q)^[k] .infinity) (k • P) :=
  iterate_represents (R := Represents f) (Represents.add ho) Represents.infinity hq k

/-- The double-and-add of the model gives the repeated sum, for a point of the curve. -/
theorem Represents.smul_eq_iterate (ho : o.EmbedsIn f) {q : Point F} {P : (shortCurve b).Point}
    (hq : Represents f q P) {k w : Nat} (hk : k < 2 ^ w) :
    q.smul o k w = (fun t => Point.add o t q)^[k] .infinity :=
  (hq.smul ho hk).inj ho.injective (hq.iterate_add ho k)

end PointMultiples

end Sys2Proof.Machine
end

section
/-! SUPPORT. The twist E' of 42_curve.md R221 over the field K2: the `[n]Q` of the subgroup test is the repeated sum
(R225), and the points of the line steps are sums (43_pairing.md R263). -/

namespace Sys2Proof.Machine

/-! ### The arithmetic of Fp2 is that of the field K2 -/

/-- `inv_p` is the inverse of the field of the integers modulo p, that of 0 included (log entry 15). -/
theorem Fp.toZMod_inv [Fact p.Prime] (a : Fp) : a.inv.toZMod = a.toZMod⁻¹ := by
  by_cases ha : a = zero
  · subst ha
    rw [toZMod_inv_eq_pow, toZMod_zero, inv_zero]
    exact zero_pow (by decide)
  · refine eq_inv_of_mul_eq_one_right ?_
    rw [← toZMod_mul, mul_inv_eq_one ha, toZMod_one]

namespace Fp2

@[simp] theorem toK2_ofNat (k : Nat) : (ofNat k).toK2 = k := by ext <;> simp [toK2, ofNat]

/-- The natural numbers that are no multiple of p are not 0 in K2. -/
theorem natCast_ne_zero {k : Nat} (hk : ofNat k ≠ zero) : (k : K2) ≠ 0 := by
  rwa [← toK2_ofNat, ne_eq, toK2_eq_zero_iff]

theorem two_ne_zero : (2 : K2) ≠ 0 := natCast_ne_zero (k := 2) (by decide)

theorem three_ne_zero : (3 : K2) ≠ 0 := natCast_ne_zero (k := 3) (by decide)

theorem twistB_toK2_ne_zero : twistB.toK2 ≠ 0 := mt toK2_eq_zero_iff.mp (by decide)

end Fp2

/-- The equation of E' in K2 (R221). -/
theorem onTwist_iff_toK2 {x y : Fp2} : onTwist x y = true ↔ y.toK2 ^ 2 = x.toK2 ^ 3 + twistB.toK2 := by
  rw [onTwist_iff, ← Fp2.toK2_injective.eq_iff]
  simp [pow_succ]

section Twist

variable [Fact p.Prime] [Fact (∀ y : ZMod p, y ^ 2 ≠ -1 + 0 * y)]

theorem fp2Ops_embedsIn : fp2Ops.EmbedsIn Fp2.toK2 where
  injective := Fp2.toK2_injective
  map_ofNat := Fp2.toK2_ofNat
  map_sub := Fp2.toK2_sub
  map_neg := Fp2.toK2_neg
  map_mul := Fp2.toK2_mul
  map_inv a := by
    show a.inv.toK2 = _
    rw [Fp2.toK2_inv, Fp.toZMod_inv, ← Fp2.norm_toK2]
    rfl

/-- A valid point is a point of the curve over K2. -/
theorem exists_represents {q : G2} (hq : isValidG2 q = true) :
    ∃ P : (shortCurve twistB.toK2).Point, Represents Fp2.toK2 q P := by
  cases q with
  | infinity => exact ⟨.zero, trivial⟩
  | affine x y =>
    exact ⟨.some _ _ (shortCurve_nonsingular Fp2.two_ne_zero Fp2.three_ne_zero Fp2.twistB_toK2_ne_zero
      (onTwist_iff_toK2.mp hq)), rfl, rfl⟩

end Twist

/-- Settles O60: both are the n-fold multiple in the group of the curve over K2, where the sum is associative. -/
theorem smulOrderIsTheRepeatedSum : Obligations.SmulOrderIsTheRepeatedSum := by
  have : Fact p.Prime := ⟨prime_p⟩
  have := k2_rootless
  classical
  intro q hq
  obtain ⟨P, hP⟩ := exists_represents hq
  exact hP.smul_eq_iterate fp2Ops_embedsIn (by decide)

/-! ### The points of the line steps -/

theorem Fp2.eq_neg_self_iff {y : Fp2} : y = y.neg ↔ y = zero := by
  have : Fact p.Prime := ⟨prime_p⟩
  have := k2_rootless
  rw [← toK2_injective.eq_iff, toK2_neg, eq_neg_iff_add_eq_zero, ← two_mul, mul_eq_zero_iff_left two_ne_zero,
    toK2_eq_zero_iff]

theorem Fp2.sub_two_mul (a x : Fp2) : a.sub ((ofNat 2).mul x) = (a.sub x).sub x :=
  toK2_injective (by simp only [toK2_sub, toK2_mul, toK2_ofNat]; push_cast; ring)

/-- The doubling step gives `T + T` (R263). -/
theorem lineDbl_point (T : G2) (P : G1) : (lineDbl T P).2 = Point.add fp2Ops T T := by
  cases T with
  | infinity => rfl
  | affine x y =>
    have hopp : x = x ∧ y = fp2Ops.neg y ↔ y = Fp2.zero := (and_iff_right rfl).trans Fp2.eq_neg_self_iff
    rw [Point.add_affine, lineDbl]
    by_cases hy : y = Fp2.zero
    · rw [if_pos hy, if_pos (hopp.mpr hy)]
    · rw [if_neg hy, if_neg (mt hopp.mp hy), FieldOps.slope, if_pos rfl]
      simp only [Fp2.sub_two_mul]
      rfl

/-- Points of E' with equal first coordinates are equal or opposite. -/
theorem eq_or_eq_neg_of_onTwist {x y y' : Fp2} (h : onTwist x y = true) (h' : onTwist x y' = true) :
    y = y' ∨ y = y'.neg := by
  have : Fact p.Prime := ⟨prime_p⟩
  have := k2_rootless
  have hsq : y.toK2 ^ 2 = y'.toK2 ^ 2 := by rw [onTwist_iff_toK2.mp h, onTwist_iff_toK2.mp h']
  rw [← Fp2.toK2_injective.eq_iff, ← Fp2.toK2_injective.eq_iff, Fp2.toK2_neg]
  exact sq_eq_sq_iff_eq_or_eq_neg.mp hsq

/-- The addition step gives `T + Q` for points of E', in the special cases too (R263). -/
theorem lineAdd_point {T Q : G2} (P : G1) (hT : isValidG2 T = true) (hQ : isValidG2 Q = true) :
    (lineAdd T Q P).2 = Point.add fp2Ops T Q := by
  match T, Q with
  | .infinity, Q => rfl
  | .affine x y, .infinity => rfl
  | .affine x1 y1, .affine x2 y2 =>
    rw [lineAdd]
    split_ifs with hx hy
    · rw [hx, hy, lineDbl_point]
    · subst hx
      have hopp : y1 = y2.neg := (eq_or_eq_neg_of_onTwist hT hQ).resolve_left hy
      rw [Point.add_affine, if_pos ⟨rfl, hopp⟩]
    · rw [Point.add_affine, if_neg fun h => hx h.1, FieldOps.slope, if_neg hx]
      rfl

/-- Settles O41: the steps by their cases, and the law as it is defined. -/
theorem lineStepsFollowTheGroupLaw : Obligations.LineStepsFollowTheGroupLaw :=
  ⟨lineDbl_point, fun _ _ => lineAdd_point, Point.infinity_add fp2Ops, Point.add_infinity fp2Ops,
    fun _ _ _ _ => rfl⟩

end Sys2Proof.Machine
end

section
/-! SUPPORT. The final exponentiation is the power FE of Fp12 (43_pairing.md R266): it takes products to products and
1_12 to 1_12, so a pairing with O leaves a product as it was (R275, R301). -/

namespace Sys2Proof.Machine

/-! ### FINEXP as a power -/

/-- Multiplying again and again by `x`, from the identity, is the power in the monoid in which the elements embed. -/
theorem Embeds.map_iterate_mul {α M : Type} [CommMonoid M] {f : α → M} {mul : α → α → α} {one : α}
    (h : Embeds f mul one) (x : α) (k : Nat) : f ((fun r => mul r x)^[k] one) = f x ^ k := by
  have hsemi : Function.Semiconj f (fun r => mul r x) (· * f x) := fun r => h.map_mul r x
  rw [hsemi.iterate_right k one, mul_right_iterate_apply, h.map_one, one_mul]

/-- FE has 2790 bits, so the model's square-and-multiply reads all of it. -/
theorem finalExponent_lt : finalExponent < 2 ^ 2790 := by decide +kernel

theorem toK12_finalExp (f : Fp12) : (finalExp f).toK12 = f.toK12 ^ finalExponent :=
  map_binPow Fp12.toK12 Fp12.toK12_mul Fp12.toK12_one f finalExponent_lt

/-- Settles O43: both are the power FE in the ring K12. -/
theorem finalExpIsThePower : Obligations.FinalExpIsThePower := fun f =>
  Fp12.toK12_injective ((toK12_finalExp f).trans (Fp12.embeds.map_iterate_mul f finalExponent).symm)

/-- Settles O44: powers multiply in the commutative ring K12. -/
theorem finalExpIsMultiplicative : Obligations.FinalExpIsMultiplicative := by
  intro f g
  apply Fp12.toK12_injective
  calc (finalExp (f.mul g)).toK12
      = (f.toK12 * g.toK12) ^ finalExponent := by rw [toK12_finalExp, Fp12.toK12_mul]
    _ = f.toK12 ^ finalExponent * g.toK12 ^ finalExponent := mul_pow ..
    _ = ((finalExp f).mul (finalExp g)).toK12 := by rw [Fp12.toK12_mul, toK12_finalExp, toK12_finalExp]

/-! ### Points at infinity -/

theorem miller_of_infinity {P : G1} {Q : G2} (h : P = .infinity ∨ Q = .infinity) : miller P Q = Fp12.one := if_pos h

@[simp] theorem finalExp_one : finalExp Fp12.one = Fp12.one := binPow_idem (Fp12.embeds.right_identity _) _ _

theorem pairing_of_infinity {P : G1} {Q : G2} (h : P = .infinity ∨ Q = .infinity) : pairing P Q = Fp12.one := by
  rw [pairing, miller_of_infinity h, finalExp_one]

/-- Settles O45: the factor of a pair with O in it is 1_12, wherever it stands in the product. -/
theorem pairingWithInfinityIsOne : Obligations.PairingWithInfinityIsOne := by
  refine ⟨fun Q => pairing_of_infinity (.inl rfl), fun P => pairing_of_infinity (.inr rfl), fun l l' P Q h => ?_⟩
  rw [pairingProduct, pairingProduct, List.foldl_append, List.foldl_append, List.foldl_cons, pairing_of_infinity h,
    Fp12.embeds.right_identity]

end Sys2Proof.Machine
end

section
/-! SUPPORT. The pairing commands on canonical points (43_pairing.md R268, R272 to R274): the points' check, what
MILLER, PAIR and FINEXP write, and the Miller loop pass by pass (R264). -/

namespace Sys2Proof.Machine

/-! ### The check of the points -/

section Points

variable {s : State} {d a b : Idx} {T Q : G2} {P : G1}

theorem wellFormed_lineDbl {m : Nat} : (Instr.lineDbl d a b).wellFormed m = true ↔
    InFile d 12 ∧ InFile a 4 ∧ InFile b 2 ∧ lineDisjoint d a = true := by
  simp [Instr.wellFormed, fits_iff, and_assoc]

theorem wellFormed_lineAdd {m : Nat} : (Instr.lineAdd d a b).wellFormed m = true ↔
    InFile d 12 ∧ InFile a 8 ∧ InFile b 2 ∧ lineDisjoint d a = true := by
  simp [Instr.wellFormed, fits_iff, and_assoc]

theorem pairOperands_of_points (hP : loadG1 (s.operand a) = some P) (hQ : loadG2 (s.operand b) = some Q) :
    pairOperands a b s =
      if isValidG1 P && isValidG2 Q then .ok (P, Q) else .error ⟨.invalidOperandPoint, 0⟩ := by
  rw [pairOperands_eq, hP, hQ]

theorem lineDblCmd_of_points (hwf : (Instr.lineDbl d a b).wellFormed s.maxPairs = true)
    (hT : loadG2 (s.operand a) = some T) (hP : loadG1 (s.operand b) = some P) :
    lineDblCmd d a b s =
      if isValidG2 T && isValidG1 P then .ok (lineEffect d a P (lineDbl T P))
      else .error ⟨.invalidOperandPoint, 0⟩ := by
  rw [Instr.wellFormed] at hwf
  rw [lineDblCmd_eq, if_pos hwf, hT, hP]

theorem lineAddCmd_of_points (hwf : (Instr.lineAdd d a b).wellFormed s.maxPairs = true)
    (hT : loadG2 (s.operand a) = some T) (hQ : loadG2 (fun k => s.operand a (k + 4)) = some Q)
    (hP : loadG1 (s.operand b) = some P) :
    lineAddCmd d a b s =
      if isValidG2 T && isValidG2 Q && isValidG1 P then .ok (lineEffect d a P (lineAdd T Q P))
      else .error ⟨.invalidOperandPoint, 0⟩ := by
  rw [Instr.wellFormed] at hwf
  rw [lineAddCmd_eq, if_pos hwf, hT, hQ, hP]

/-- MILLER and PAIR with their operands in place end as the check of the points does. -/
theorem pairCmd_of_placed {f : G1 → G2 → Fp12} (hd : InFile d 12) (hPQ : PairAt s a b P Q) :
    pairCmd f d a b s =
      if isValidG1 P && isValidG2 Q then .ok { writes := [(d.toNat, storeFp12 (f P Q))] }
      else .error ⟨.invalidOperandPoint, 0⟩ := by
  obtain ⟨ha, hb, hP, hQ⟩ := hPQ
  rw [pairCmd_eq, if_pos (by simp [fits_iff.mpr hd, fits_iff.mpr ha, fits_iff.mpr hb]), pairOperands_of_points hP hQ]
  split_ifs <;> rfl

theorem accPairCmd_of_placed (hPQ : PairAt s a b P Q) :
    accPairCmd a b s =
      if isValidG1 P && isValidG2 Q then .ok { acc := some (s.acc.mul (pairing P Q)) }
      else .error ⟨.invalidOperandPoint, 0⟩ := by
  obtain ⟨ha, hb, hP, hQ⟩ := hPQ
  rw [accPairCmd_eq, if_pos (by simp [fits_iff.mpr ha, fits_iff.mpr hb]), pairOperands_of_points hP hQ]
  split_ifs <;> rfl

end Points

/-- Settles O15: a point off its curve fails the check, which each of the five commands makes last. -/
theorem offCurveOperandsAreRefused : Obligations.OffCurveOperandsAreRefused := by
  refine ⟨fun s d a b T P hwf hT hP hoff => ?_, fun s d a b T Q P hwf hT hQ hP hoff => ?_,
    fun s d a b P Q hd hPQ hoff => ?_⟩
  · exact completes_faulted ((lineDblCmd_of_points hwf hT hP).trans (if_neg (by simpa [imp_iff_not_or] using hoff)))
  · exact completes_faulted
      ((lineAddCmd_of_points hwf hT hQ hP).trans (if_neg (by simpa [imp_iff_not_or, or_assoc] using hoff)))
  · have hinvalid : ¬(isValidG1 P && isValidG2 Q) = true := by simpa [imp_iff_not_or] using hoff
    exact ⟨completes_faulted ((pairCmd_of_placed hd hPQ).trans (if_neg hinvalid)),
      completes_faulted ((pairCmd_of_placed hd hPQ).trans (if_neg hinvalid)),
      completes_faulted ((accPairCmd_of_placed hPQ).trans (if_neg hinvalid))⟩

/-! ### MILLER and PAIR -/

/-- MILLER and PAIR of valid points write their value at D and nothing else but the report. -/
theorem completes_pairCmd {f : G1 → G2 → Fp12} {i : Instr} {s : State} {d a b : Idx} {P : G1} {Q : G2}
    (hi : body i s = pairCmd f d a b s) (hd : InFile d 12) (hPQ : PairAt s a b P Q) (hP : isValidG1 P = true)
    (hQ : isValidG2 Q = true) :
    Completes i s fun t => HoldsAt t d (storeFp12 (f P Q)) ∧ t.acc = s.acc ∧ Ran s t [(d.toNat, 12)] false := by
  have hbody : body i s = .ok { writes := [(d.toNat, storeFp12 (f P Q))] } := by
    rw [hi, pairCmd_of_placed hd hPQ, if_pos (by simp [hP, hQ])]
  exact (completes_ranWriting hd hbody).imp fun _ h => ⟨h.holdsAt, h.acc, h.ran⟩

/-! ### The Miller loop -/

section Loop

variable {P : G1} {Q : G2} {f : Nat → Fp12} {T : Nat → G2}

/-- A pass is one step of the model's loop, at the bit that it names. -/
theorem MillerPasses.step_eq (h : MillerPasses P Q f T) {k : Nat} (hk : k < 64) :
    millerStep P Q (loopParam.testBit (63 - k)) (f k) (T k) = (f (k + 1), T (k + 1)) := by
  rw [loopParam_eq]
  cases hbit : Nat.testBit 0x19d797039be763ba8 (63 - k) with
  | false =>
    obtain ⟨hf, hT⟩ := h.zero_bit k hk hbit
    rw [hf, hT]
    rfl
  | true =>
    obtain ⟨hf, hT⟩ := h.one_bit k hk hbit
    rw [hf, hT]
    rfl

/-- The loop over the last `i` bits takes the result of the passes before them to that of all 64. -/
theorem MillerPasses.loop_eq (h : MillerPasses P Q f T) {i : Nat} (hi : i ≤ 64) :
    millerLoop P Q i (f (64 - i)) (T (64 - i)) = (f 64, T 64) := by
  induction i with
  | zero => rfl
  | succ i ih =>
    have hstep := h.step_eq (k := 64 - (i + 1)) (by omega)
    rw [show 63 - (64 - (i + 1)) = i by omega, show 64 - (i + 1) + 1 = 64 - i by omega] at hstep
    rw [millerLoop, hstep]
    exact ih (by omega)

/-- The Miller value of the passes: the two correction steps after the last pass (R264). -/
theorem MillerPasses.miller_eq (h : MillerPasses P Q f T) (hP : P ≠ .infinity) (hQ : Q ≠ .infinity) :
    miller P Q =
      ((f 64).mul (lineAdd (T 64) (frobPoint Q) P).1).mul
        (lineAdd (lineAdd (T 64) (frobPoint Q) P).2 (frobPointNeg2 Q) P).1 := by
  have hloop : millerLoop P Q 64 Fp12.one Q = (f 64, T 64) := by
    have hall := h.loop_eq le_rfl
    rwa [Nat.sub_self, h.value_start, h.point_start] at hall
  rw [miller, if_neg (not_or.mpr ⟨hP, hQ⟩), hloop]

end Loop

/-- Settles O42: MILLER and PAIR are one shape and FINEXP refuses only zero; the value of the loop is that of its
passes. -/
theorem pairingCommandsWriteTheirValue : Obligations.PairingCommandsWriteTheirValue :=
  ⟨fun _ _ _ _ _ _ hd hPQ hP hQ =>
      ⟨completes_pairCmd (f := miller) rfl hd hPQ hP hQ, completes_pairCmd (f := pairing) rfl hd hPQ hP hQ⟩,
    fun _ _ _ _ hd ha hf hne => completes_nonzeroCmd_holdsAt fp12Layout_lawful rfl hd ha hf hne,
    fun _ => miller_of_infinity (.inl rfl), fun _ => miller_of_infinity (.inr rfl),
    fun _ _ _ _ _ hP h => h.miller_eq hP nofun⟩

end Sys2Proof.Machine
end

section
/-! SUPPORT. The LINE commands (43_pairing.md R262, R263, R269 to R271): the words of a line value branch by branch, and
the two destinations that a line step writes. -/

namespace Sys2Proof.Machine

/-! ### The words of a line value -/

theorem storeFp12_one : storeFp12 Fp12.one = oneWords := by decide

/-- A product with an element of Fp goes by coefficients. -/
theorem Fp2.mul_base (x : Fp2) (k : Fp) : x.mul ⟨k, Fp.zero⟩ = ⟨x.c0 * k, x.c1 * k⟩ :=
  toK2_injective (by ext <;> simp [toK2, mul])

theorem storeFp12_lineValue (lam xT yT : Fp2) (xP yP : Fp) :
    storeFp12 (lineValue lam xT yT (.affine xP yP)) = lineWords lam xT yT xP yP := by
  rw [lineValue, G1.storedX, Fp2.mul_base]
  rfl

theorem storeFp12_verticalValue (xT : Fp2) (xP yP : Fp) :
    storeFp12 (verticalValue xT (.affine xP yP)) = verticalWords xT xP := rfl

/-- The line value of a doubling step, by the branches of R263. -/
theorem storeFp12_lineDbl (T : G2) (xP yP : Fp) :
    storeFp12 (lineDbl T (.affine xP yP)).1 = dblLineWords T (.affine xP yP) := by
  match T with
  | .infinity => exact storeFp12_one
  | .affine x y =>
    rw [lineDbl, dblLineWords]
    split_ifs
    · exact storeFp12_verticalValue x xP yP
    · exact storeFp12_lineValue _ x y xP yP

/-- The line value of an addition step, by the branches of R263. -/
theorem storeFp12_lineAdd (T Q : G2) (xP yP : Fp) :
    storeFp12 (lineAdd T Q (.affine xP yP)).1 = addLineWords T Q (.affine xP yP) := by
  match T, Q with
  | .infinity, _ => exact storeFp12_one
  | .affine _ _, .infinity => exact storeFp12_one
  | .affine xT yT, .affine xQ yQ =>
    rw [lineAdd, addLineWords]
    split_ifs
    · exact storeFp12_lineDbl _ xP yP
    · exact storeFp12_verticalValue xT xP yP
    · exact storeFp12_lineValue _ xT yT xP yP

theorem dblLineWords_infinity (T : G2) : dblLineWords T .infinity = oneWords := by cases T <;> rfl

theorem addLineWords_infinity (T Q : G2) : addLineWords T Q .infinity = oneWords := by cases T <;> cases Q <;> rfl

/-- LINE_DBL writes the line value of the step, 1_12 for P = O (R269). -/
theorem storeFp12_ite_lineDbl (T : G2) (P : G1) :
    storeFp12 (if P = .infinity then Fp12.one else (lineDbl T P).1) = dblLineWords T P := by
  cases P with
  | infinity => rw [if_pos rfl, storeFp12_one, dblLineWords_infinity]
  | affine xP yP => rw [if_neg nofun, storeFp12_lineDbl]

/-- LINE_ADD writes the line value of the step, 1_12 for P = O (R269). -/
theorem storeFp12_ite_lineAdd (T Q : G2) (P : G1) :
    storeFp12 (if P = .infinity then Fp12.one else (lineAdd T Q P).1) = addLineWords T Q P := by
  cases P with
  | infinity => rw [if_pos rfl, storeFp12_one, addLineWords_infinity]
  | affine xP yP => rw [if_neg nofun, storeFp12_lineAdd]

/-! ### What a line step leaves -/

theorem holdsAt_setWords (s : State) {x : Idx} {ws : List Word} (hx : InFile x ws.length) :
    HoldsAt (s.setWords x.toNat ws) x ws := by
  intro k hk
  rw [s.word_setWords _ _ hx, if_pos (by omega), Nat.add_sub_cancel_left]

/-- Words that are stored stay where a disjoint range is written after them. -/
theorem HoldsAt.setWords {s : State} {x : Idx} {ws : List Word} (h : HoldsAt s x ws) {k : Nat} {ws' : List Word}
    (hdisj : k + ws'.length ≤ x.toNat ∨ x.toNat + ws.length ≤ k) : HoldsAt (s.setWords k ws') x ws := by
  intro j hj
  rw [s.word_setWords_of_outside k ws' (by omega)]
  exact h j hj

/-- A line step leaves the line value at D, 1_12 for P = O (R269), the new point at A, and nothing else but the
report. -/
theorem completes_lineEffect {i : Instr} {s : State} {d a : Idx} {P : G1} {r : Fp12 × G2} (hd : InFile d 12)
    (ha : InFile a 4) (hdisj : lineDisjoint d a = true) (h : body i s = .ok (lineEffect d a P r)) :
    Completes i s fun t =>
      HoldsAt t d (storeFp12 (if P = .infinity then Fp12.one else r.1)) ∧ HoldsAt t a (storeG2 r.2) ∧
        t.acc = s.acc ∧ Ran s t [(d.toNat, 12), (a.toNat, 4)] false := by
  have hlen := length_storeG2 r.2
  refine ⟨_, exec_of_body_ok h, ?_, ?_, rfl, ?_⟩
  · exact (holdsAt_setWords s hd).setWords (by rw [hlen]; exact lineDisjoint_iff.mp hdisj)
  · exact holdsAt_setWords _ (by rwa [hlen])
  · rw [← hlen]
    exact ran_complete s _

/-- Settles O40: the words by the branches of the line value, the two destinations by their disjointness. -/
theorem lineCommandsWriteLineAndPoint : Obligations.LineCommandsWriteLineAndPoint := by
  refine ⟨fun s d a b T P hwf hT hP hvT hvP => ?_, fun s d a b T Q P hwf hT hQ hP hvT hvQ hvP => ?_,
    fun T Q P hne => ?_⟩
  · have hbody := (lineDblCmd_of_points hwf hT hP).trans (if_pos (by simp [hvT, hvP]))
    obtain ⟨hd, ha, -, hdisj⟩ := wellFormed_lineDbl.mp hwf
    rw [← storeFp12_ite_lineDbl]
    exact completes_lineEffect hd ha hdisj hbody
  · have hbody := (lineAddCmd_of_points hwf hT hQ hP).trans (if_pos (by simp [hvT, hvQ, hvP]))
    obtain ⟨hd, ha, -, hdisj⟩ := wellFormed_lineAdd.mp hwf
    rw [← storeFp12_ite_lineAdd]
    exact completes_lineEffect hd (by omega) hdisj hbody
  · rw [← storeFp12_ite_lineDbl, ← storeFp12_ite_lineAdd, if_neg hne, if_neg hne]
    exact ⟨rfl, rfl⟩

end Sys2Proof.Machine
end

section
/-! SUPPORT. The aggregator commands (44_aggregate.md R302 to R305) and EVALUATE (R310 to R312): the effect on ACC alone,
the decode phase element by element, and EVALUATE as that phase followed by the product of the pairings. -/

namespace Sys2Proof.Machine

/-! ### The accumulator's commands -/

/-- A command whose effect is on ACC and the report alone leaves S as it was. -/
theorem completes_acc {i : Instr} {s : State} {x : Fp12} {r : Bool}
    (h : body i s = .ok { acc := some x, result := r }) : Completes i s fun t => t.acc = x ∧ Ran s t [] r :=
  ⟨_, exec_of_body_ok h, rfl, ran_complete s _⟩

theorem body_accStore_of_inFile {s : State} {d : Idx} (hd : InFile d 12) :
    body (.accStore d) s = .ok { writes := [(d.toNat, storeFp12 s.acc)] } := by
  rw [body, accStoreCmd, checkRange, if_pos (fits_iff.mpr hd)]
  rfl

/-- Settles O47: ACC_INIT and ACC_PAIR affect ACC alone, ACC_CHECK the result alone, ACC_STORE its destination alone. -/
theorem accumulatorCommandsComplete : Obligations.AccumulatorCommandsComplete := by
  refine ⟨fun s => completes_acc rfl, fun s a b P Q hPQ hP hQ => ?_, fun s => ?_, fun s d hd => ?_⟩
  · exact completes_acc ((accPairCmd_of_placed hPQ).trans (if_pos (by simp [hP, hQ])))
  · refine (completes_result (i := .accCheck) rfl).imp fun t ⟨hresult, hrest⟩ => ⟨?_, hrest⟩
    rw [hresult, decide_eq_true_iff]
  · exact (completes_ranWriting hd (body_accStore_of_inFile hd)).imp fun _ h => ⟨h.holdsAt, h.acc, h.ran⟩

/-! ### The ERRINFO of an element -/

/-- PART is bit 16 above an element index of 16 bits (R33, R310). -/
theorem errInfoWord_eq_or {i : Nat} (hi : i < 2 ^ 16) (part : Bool) :
    errInfoWord i part = BitVec.ofNat 32 i ||| if part then 0x10000 else 0 := by
  have hindex : BitVec.ofNat 32 i = (0 : BitVec 16) ++ BitVec.ofNat 16 i := by
    refine BitVec.eq_of_toNat_eq ?_
    rw [BitVec.toNat_append (0 : BitVec 16), BitVec.toNat_ofNat, BitVec.toNat_ofNat, Nat.mod_eq_of_lt hi,
      Nat.mod_eq_of_lt (by omega)]
    simp
  have hpart : (if part then 0x10000 else 0 : BusWord) = (0 : BitVec 15) ++ BitVec.ofBool part ++ (0 : BitVec 16) := by
    cases part <;> rfl
  rw [hindex, hpart, errInfoWord]
  ext k hk
  simp only [BitVec.getElem_or, BitVec.getElem_append]
  split_ifs <;> simp

/-! ### Decoding one element -/

section Element

variable {s : State} {i : Nat} {P : G1} {Q : G2} {e : ErrCode}

theorem decodeElement_of_parts (hP : elementG1 s i = .ok P) (hQ : elementG2 s i = .ok Q) :
    decodeElement s i = .ok (P, Q) := by
  rw [elementG1] at hP
  rw [elementG2] at hQ
  rw [decodeElement_eq, hP, hQ]

theorem decodeElement_of_g1Error (he : elementG1 s i = .error e) :
    decodeElement s i = .error ⟨e, errInfoWord i false⟩ := by
  rw [elementG1] at he
  rw [decodeElement_eq, he]

theorem decodeElement_of_g2Error (hP : elementG1 s i = .ok P) (he : elementG2 s i = .error e) :
    decodeElement s i = .error ⟨e, errInfoWord i true⟩ := by
  rw [elementG1] at hP
  rw [elementG2] at he
  rw [decodeElement_eq, hP, he]

end Element

/-! ### The decode phase -/

/-- The decode phase gives the list of the elements when each of them decodes. -/
theorem decodeElements_of_all {s : State} {pairs : List (G1 × G2)} {i : Nat}
    (h : ∀ j (hj : j < pairs.length), decodeElement s (i + j) = .ok pairs[j]) :
    decodeElements s i pairs.length = .ok pairs := by
  induction pairs generalizing i with
  | nil => rfl
  | cons pq rest ih =>
    have hfirst : decodeElement s i = .ok pq := h 0 (by simp)
    have hrest : decodeElements s (i + 1) rest.length = .ok rest := ih fun j hj => by
      rw [Nat.add_right_comm]
      exact h (j + 1) (by simpa using hj)
    rw [List.length_cons, decodeElements_succ, hfirst, hrest]

/-- The decode phase ends with the fault of the first element that fails, whatever the later ones hold. -/
theorem decodeElements_of_firstError {s : State} {i j k : Nat} {r : Raise} (hj : j < k)
    (hbefore : ∀ m < j, ∃ pq, decodeElement s (i + m) = .ok pq) (hr : decodeElement s (i + j) = .error r) :
    decodeElements s i k = .error r := by
  induction j generalizing i k with
  | zero =>
    obtain ⟨k, rfl⟩ := Nat.exists_eq_add_one.mpr hj
    rw [Nat.add_zero] at hr
    rw [decodeElements_succ, hr]
  | succ j ih =>
    obtain ⟨k, rfl⟩ := Nat.exists_eq_add_one.mpr (Nat.zero_lt_of_lt hj)
    obtain ⟨pq, hfirst⟩ : ∃ pq, decodeElement s i = .ok pq := hbefore 0 (by omega)
    have hlater : decodeElements s (i + 1) k = .error r := by
      refine ih (by omega) (fun m hm => ?_) (by rw [Nat.add_right_comm]; exact hr)
      rw [Nat.add_right_comm]
      exact hbefore (m + 1) (by omega)
    rw [decodeElements_succ, hfirst, hlater]

/-! ### EVALUATE -/

/-- The effect of the pairing phase of EVALUATE (R310). -/
def productEffect (pairs : List (G1 × G2)) : Effect :=
  { acc := some (pairingProduct pairs), result := decide (pairingProduct pairs = Fp12.one) }

/-- The empty product is 1_12, so it passes the check. -/
theorem productEffect_nil : productEffect [] = { acc := some Fp12.one, result := true } := by
  have hnil : pairingProduct [] = Fp12.one := by rw [pairingProduct, List.foldl_nil]
  rw [productEffect, hnil, decide_eq_true rfl]

/-- With a length that passes its checks, EVALUATE is the decode phase and then the product; the empty input is no
exception. -/
theorem evaluateCmd_eq_map {s : State} (hmod : s.len.toNat % 192 = 0) (hcap : s.len.toNat ≤ s.ibufBytes) :
    evaluateCmd s = (decodeElements s 0 (s.len.toNat / 192)).map productEffect := by
  rw [evaluateCmd_eq, if_neg (not_not.mpr hmod)]
  split_ifs with hempty hlarge
  · rw [hempty, Nat.zero_div, decodeElements_zero, Except.map, productEffect_nil]
  · omega
  · cases decodeElements s 0 (s.len.toNat / 192) <;> rfl

/-- Settles O48: the decode phase gives the pairs, whose product goes to ACC and is compared with 1_12. -/
theorem evaluateChecksTheProduct : Obligations.EvaluateChecksTheProduct := by
  intro s pairs hlen hcap hparts
  have hdecoded : decodeElements s 0 (s.len.toNat / 192) = .ok pairs := by
    rw [hlen, Nat.mul_div_cancel_left _ (by omega)]
    refine decodeElements_of_all fun j hj => ?_
    obtain ⟨hP, hQ⟩ := hparts j hj
    rw [Nat.zero_add]
    exact decodeElement_of_parts hP hQ
  have hbody : body .evaluate s = .ok (productEffect pairs) := by
    rw [body, evaluateCmd_eq_map (by omega) hcap, hdecoded, Except.map]
  refine (completes_acc hbody).imp fun t ⟨hacc, hran⟩ => ⟨hacc, ?_, ?_, rfl⟩
  · rw [hran.result, decide_eq_true_iff]
  · rwa [hran.result]

/-- Settles O49: the branches of EVALUATE before the decode phase, in their order. -/
theorem evaluateChecksTheLength : Obligations.EvaluateChecksTheLength := by
  refine fun s => ⟨fun hmod => ?_, fun hempty => ?_, fun hmod hlarge => ?_⟩
  · exact completes_faulted ((evaluateCmd_eq s).trans (if_pos hmod))
  · exact completes_acc (by rw [body, evaluateCmd_eq, if_neg (by omega), if_pos hempty])
  · exact completes_faulted (by
      rw [body, evaluateCmd_eq, if_neg (not_not.mpr hmod), if_neg (by omega), if_pos hlarge])

/-- EVALUATE ends with the fault of the first element that fails. -/
theorem completes_evaluate_firstError {s : State} {i : Nat} {e : ErrCode} {info : BusWord}
    (hmod : s.len.toNat % 192 = 0) (hcap : s.len.toNat ≤ s.ibufBytes) (hi : 192 * i < s.len.toNat)
    (hbefore : ∀ j < i, ∃ P Q, elementG1 s j = .ok P ∧ elementG2 s j = .ok Q)
    (he : decodeElement s i = .error ⟨e, info⟩) : Completes .evaluate s fun t => Faulted s t e info := by
  refine completes_faulted ?_
  have hfault : decodeElements s 0 (s.len.toNat / 192) = .error ⟨e, info⟩ := by
    refine decodeElements_of_firstError (j := i) (by omega) (fun j hj => ?_) (by rwa [Nat.zero_add])
    obtain ⟨P, Q, hP, hQ⟩ := hbefore j hj
    exact ⟨(P, Q), by rw [Nat.zero_add, decodeElement_of_parts hP hQ]⟩
  rw [body, evaluateCmd_eq_map hmod hcap, hfault, Except.map]

/-- The index of an element inside the buffer has 16 bits, as MAX_PAIRS has (R33, R34). -/
theorem element_lt_of_len {s : State} {i : Nat} (hcap : s.len.toNat ≤ s.ibufBytes) (hi : 192 * i < s.len.toNat) :
    i < 2 ^ 16 := by
  have hbuffer : s.ibufBytes = 192 * s.maxPairs := rfl
  have hmax : s.maxPairs < 2 ^ 16 := BitVec.isLt _
  omega

/-- Settles O50: the first element that fails ends the decode phase, its G1 part before its G2 part. -/
theorem evaluateReportsTheFirstError : Obligations.EvaluateReportsTheFirstError := by
  intro s i hmod hcap hi hbefore
  have hindex := element_lt_of_len hcap hi
  refine ⟨fun e he => ?_, fun P e hP he => ?_⟩
  · rw [show BitVec.ofNat 32 i = errInfoWord i false by simp [errInfoWord_eq_or hindex]]
    exact completes_evaluate_firstError hmod hcap hi hbefore (decodeElement_of_g1Error he)
  · rw [show BitVec.ofNat 32 i ||| 0x10000 = errInfoWord i true by simp [errInfoWord_eq_or hindex]]
    exact completes_evaluate_firstError hmod hcap hi hbefore (decodeElement_of_g2Error hP he)

end Sys2Proof.Machine
end

section
/-! SUPPORT. NOP and LDIB (45_control.md R340, R341): the bytes of a big-endian number, those of a limb of
IB, and LDIB as the write of that limb. -/

namespace Sys2Proof.Machine

/-! ### The bytes of a big-endian number -/

namespace Memory

theorem readBE_succ (m : List Host.Cell) (j k : Nat) :
    readBE m j (k + 1) = readBE m j k * 256 + (read m (j + k)).toNat := rfl

theorem readBE_lt (m : List Host.Cell) (j k : Nat) : readBE m j k < 256 ^ k := by
  induction k with
  | zero => exact Nat.one_pos
  | succ k ih =>
    have hbyte := (read m (j + k)).isLt
    rw [readBE_succ, pow_succ]
    omega

/-- The byte with `n` bytes after it stands at the weight `256 ^ n`. -/
theorem readBE_div_pow_mod (m : List Host.Cell) (j i n : Nat) :
    readBE m j (i + 1 + n) / 256 ^ n % 256 = (read m (j + i)).toNat := by
  induction n with
  | zero =>
    have hbyte := (read m (j + i)).isLt
    rw [Nat.add_zero, pow_zero, Nat.div_one, readBE_succ]
    omega
  | succ n ih =>
    have hlast := (read m (j + (i + 1 + n))).isLt
    have hdrop : readBE m j (i + 1 + n + 1) / 256 = readBE m j (i + 1 + n) := by
      rw [readBE_succ]
      omega
    rw [← Nat.add_assoc, pow_succ', ← Nat.div_div_eq_div_mul, hdrop, ih]

end Memory

namespace State

theorem toNat_limb (s : State) (k : Nat) : (s.limb k).toNat = Memory.readBE s.ibuf (32 * k) 32 :=
  Nat.mod_eq_of_lt (Memory.readBE_lt s.ibuf (32 * k) 32)

/-- Byte `j` of limb `k` stands in the bits 255-8j : 248-8j of its word (R12, R72). -/
theorem extractLsb'_limb (s : State) (k : Nat) {j : Nat} (hj : j < 32) :
    (s.limb k).extractLsb' (8 * (31 - j)) 8 = s.ibByte (32 * k + j) := by
  have hsplit : 32 = j + 1 + (31 - j) := by omega
  refine BitVec.eq_of_toNat_eq ?_
  calc ((s.limb k).extractLsb' (8 * (31 - j)) 8).toNat
    _ = Memory.readBE s.ibuf (32 * k) 32 / 256 ^ (31 - j) % 256 := by
      rw [BitVec.extractLsb'_toNat, toNat_limb, Nat.shiftRight_eq_div_pow, pow_mul]
      rfl
    _ = Memory.readBE s.ibuf (32 * k) (j + 1 + (31 - j)) / 256 ^ (31 - j) % 256 := by rw [← hsplit]
    _ = (s.ibByte (32 * k + j)).toNat := Memory.readBE_div_pow_mod ..

end State

/-! ### The commands -/

theorem inFile_one (x : Idx) : InFile x 1 := x.isLt

/-- A limb inside IBUF goes to D whatever its value: no check but those of the two places (R341). -/
theorem body_ldib_of_inBuffer {s : State} {d : Idx} {k : BitVec 16} (hk : 32 * k.toNat + 32 ≤ s.ibufBytes) :
    body (.ldib d k) s = .ok { writes := [(d.toNat, [s.limb k.toNat])] } := by
  have hlimb : limbFits s.maxPairs k = true := decide_eq_true hk
  rw [body, ldibCmd, checkRange_of_fits (fits_iff.mpr (inFile_one d)), hlimb]
  rfl

theorem RanWriting.word_dest {s t : State} {d : Idx} {w : Word} (h : RanWriting s t d [w]) : t.word d.toNat = w :=
  List.head_eq_of_cons_eq h.dest

/-- Settles O46: NOP has no effect at all, LDIB writes the limb, whose bytes are those of IB. -/
theorem nopAndLdibComplete : Obligations.NopAndLdibComplete := by
  refine ⟨fun s => ?_, fun s d k hk => ?_⟩
  · exact ⟨s.complete {}, exec_of_body_ok rfl, rfl, ran_complete s {}⟩
  · refine (completes_ranWriting (inFile_one d) (body_ldib_of_inBuffer hk)).imp fun t h => ⟨fun j hj => ?_, h.acc, h.ran⟩
    rw [h.word_dest]
    exact s.extractLsb'_limb k.toNat hj

end Sys2Proof.Machine
end

section
/-! SUPPORT. The faults as 60_exceptions.md R400 has them, with the report that the command's fault gives, and the turns of
the host and of an idle block (60_exceptions.md R414, 70_reset_and_hazards.md R453). -/

namespace Sys2Proof.Machine

/-! ### The fault of a command -/

theorem FaultReport.code_ne_none {i : Instr} {s : State} {r : Raise} (h : FaultReport i s r) : r.code ≠ .none := by
  intro hnone
  simpa [hnone, mayRaise] using h.code

/-- Settles O9: a completion reports no error; a fault changes the report alone, and only a decode error of EVALUATE
names an element. -/
theorem faultsArePrecise : Obligations.FaultsArePrecise := by
  intro i s t h herr
  rcases exec_report h with ⟨e, -, rfl⟩ | ⟨r, hr, rfl⟩
  · simp at herr
  · refine ⟨r.code, r.info, hr.code_ne_none, faulted_raise s r, fun hinfo => ?_⟩
    obtain ⟨hi, -, hcode, -⟩ := hr.info.resolve_left hinfo
    exact ⟨hi, hcode⟩

/-! ### The turns of the host -/

namespace State

theorem coreTurn_of_idle {s : State} (h : s.busy = false) : s.coreTurn = false := by simp [coreTurn, h]

/-- The host moves next where the block is idle or the host does not wait for the completion (R453). -/
theorem coreTurn_of_hostFirst {s : State} {h : HostTurn} {rest : List HostTurn} (hp : s.pending = h :: rest)
    (hfirst : s.busy = false ∨ h.whileBusy = true) : s.coreTurn = false := by
  rcases hfirst with hidle | hearly
  · exact coreTurn_of_idle hidle
  · simp [coreTurn, hp, hearly]

theorem hostMove_of_nil {s : State} (hp : s.pending = []) : s.hostMove = s := by simp [hostMove, hp]

theorem hostMove_of_cons {s : State} {h : HostTurn} {rest : List HostTurn} (hp : s.pending = h :: rest) :
    s.hostMove = { s with pending := rest }.hostAccess h.access := by simp [hostMove, hp]

end State

/-- Settles O6: the host's turn takes the first access of the list, and takes nothing from an empty one. -/
theorem hostAccessesComeInTurn : Obligations.HostAccessesComeInTurn := by
  refine ⟨fun s h rest hp hfirst => ?_, fun s hp hidle => ?_⟩
  · rw [step_of_hostTurn (State.coreTurn_of_hostFirst hp hfirst), State.hostMove_of_cons hp]
  · rw [step_of_hostTurn (State.coreTurn_of_idle hidle), State.hostMove_of_nil hp]

end Sys2Proof.Machine
end

section
/-! SUPPORT. The soft reset as the host's write to CTRL (70_reset_and_hazards.md R451), and the end of a command in
flight: each step takes an access from the host's list or ends the command (R453). -/

namespace Sys2Proof.Machine

/-- Settles O20: the write is the soft reset, whose frame the laws of the state give. -/
theorem softResetIsTheSpecs : Obligations.SoftResetIsTheSpecs := by
  intro s v hv
  have hreset : s.hostAccess (.write .word 0x004 v) = s.softReset :=
    (s.hostAccess_write_ctrl v).trans (s.writeCtrl_of_srst hv)
  exact ⟨s.softReset, hreset, rfl, rfl, rfl, rfl, rfl, rfl, rfl, rfl, rfl, rfl, rfl, s.id_softReset, s.caps_softReset,
    ibByte_congr s.ibuf_softReset, fun _ => s.word_softReset⟩

/-! ### The host's list of accesses -/

namespace State

@[simp] theorem pending_writeCtrl (s : State) (v : BusWord) : (s.writeCtrl v).pending = s.pending := by
  cases h : v.getLsbD 0 with
  | true => rw [writeCtrl_of_srst s h, pending_softReset]
  | false => rw [writeCtrl_of_not_srst s h]

theorem AccessEffect.pending {s t : State} (h : AccessEffect s t) : t.pending = s.pending := by
  cases h with
  | ctrl v => exact pending_writeCtrl s v
  | _ => rfl

@[simp] theorem pending_hostAccess (s : State) (x : HostAccess) : (s.hostAccess x).pending = s.pending :=
  (accessEffect_hostAccess s x).pending

theorem pending_hostMove (s : State) : s.hostMove.pending = s.pending.tail := by
  cases hp : s.pending with
  | nil => simp [hostMove_of_nil hp, hp]
  | cons turn rest => simp [hostMove_of_cons hp]

theorem coreTurn_of_nil {s : State} (hb : s.busy = true) (hp : s.pending = []) : s.coreTurn = true := by
  simp [coreTurn, hb, hp]

end State

/-- The core's step ends the command in flight; any other step takes the host's next access. -/
theorem idle_or_pending_tail_of_step {s t : State} (h : step s = .next t) :
    t.busy = false ∨ s.coreTurn = false ∧ t.pending = s.pending.tail := by
  rcases step_cases h with ⟨-, e, rfl⟩ | ⟨-, r, rfl⟩ | ⟨hhost, rfl⟩
  · exact .inl (s.busy_complete e)
  · exact .inl (s.busy_raise r)
  · exact .inr ⟨hhost, s.pending_hostMove⟩

/-! ### The end of a command in flight -/

theorem run_succ_of_step {s t : State} (h : step s = .next t) (k : Nat) :
    Sys2Proof.core.run (k + 1) s = Sys2Proof.core.run k t := by
  have hcore : Sys2Proof.core.step s = .next t := h
  simp only [Host.Core.run, hcore]

theorem run_one_of_step {s t : State} (h : step s = .next t) : Sys2Proof.core.run 1 s = .next t := run_succ_of_step h 0

/-- Settles O7: by induction on the accesses that the host has left. A step that does not end the command takes one of
them, and with none left the core moves. -/
theorem commandInFlightEnds : Obligations.CommandInFlightEnds := by
  intro s hb
  induction hp : s.pending generalizing s with
  | nil =>
    obtain ⟨t, ht⟩ := exists_step s
    have hbt := (idle_or_pending_tail_of_step ht).resolve_right (by simp [State.coreTurn_of_nil hb hp])
    exact ⟨1, t, Nat.le_refl _, run_one_of_step ht, hbt⟩
  | cons turn rest ih =>
    obtain ⟨t, ht⟩ := exists_step s
    cases hbt : t.busy with
    | false => exact ⟨1, t, by simp, run_one_of_step ht, hbt⟩
    | true =>
      obtain ⟨-, hpt⟩ := (idle_or_pending_tail_of_step ht).resolve_left (by simp [hbt])
      obtain ⟨k, u, hk, hrun, hu⟩ := ih t hbt (by simp [hpt, hp])
      exact ⟨k + 1, u, Nat.succ_le_succ hk, (run_succ_of_step ht k).trans hrun, hu⟩

end Sys2Proof.Machine
end
